-- ==== Sys2Proof/Word.lean ====
section
/-! DEFINITION. The widths of the fields that a port partner or a pager sees as bits (11, R187 to R190). -/

namespace Sys2Proof

/-- One byte of a request or response frame (R164). -/
abbrev Byte := BitVec 8

/-- A two-byte field (R164). -/
abbrev Half := BitVec 16

/-- A three-byte field: a pager address or a location code (11.2). -/
abbrev Three := BitVec 24

/-- A four-byte field: an incident reference (11.2). -/
abbrev Quad := BitVec 32

/-- `saturate bound n` is `n` stopped at `bound` (Conventions: a quantity that saturates stops at its maximum). -/
def saturate (bound n : Nat) : Nat := min bound n

end Sys2Proof
end

