-- ==== Sys2Proof/Syntax.lean ====
section
/-! DEFINITION. The commands of the EJ-2416: one constructor per row of spec/opcode_table.json, with the operands the row's
rule gives it. A request's operands are the port it is sent on and its request fields, each in the width R171 and 11.2 give
it; the fields are raw, and the owning rule decides what a field out of range does. An event's operands are the levels of
the input lines that the event samples. -/

namespace Sys2Proof

/-- The three request ports (chapter 9). -/
inductive Port where
  | a | b | c
deriving DecidableEq, Repr

/-- The two transmitter sites (6.4). -/
inductive Site where
  | a | b
deriving DecidableEq, Repr

/-- The levels that a plan point samples: the two ready inputs, true for ready, and the SITE input, true for high
(R120, R121). -/
structure SitePins where
  rdyA : Bool
  rdyB : Bool
  site : Bool
deriving DecidableEq, Repr

/-- The levels sampled when a reset ends: the class straps, true for high (R169), and the select lines, true for a line
that is low at that moment (R166). -/
structure ResetPins where
  clsA : Bool
  clsB : Bool
  clsC : Bool
  selLowA : Bool
  selLowB : Bool
  selLowC : Bool
deriving DecidableEq, Repr

/-- The levels of the receiver lines at one symbol time: the symbol, true for high; the erasure flag and carrier detect,
true for active (R152). -/
structure RxPins where
  rxd : Bool
  rxe : Bool
  rxc : Bool
deriving DecidableEq, Repr

/-- The verdict of the self-test on each of the four memory groups, true for fail (R181). -/
structure GroupResults where
  roster : Bool
  callouts : Bool
  plansAndTones : Bool
  noticeQueues : Bool
deriving DecidableEq, Repr

/-- The commands: the rows of the opcode table, in its order. -/
inductive Instr where
  | raise (p : Port) (reference : Quad) (plan priority cls : Byte) (location : Three)
  | cancel (p : Port) (number : Half)
  | escalate (p : Port) (number : Half) (plan : Byte)
  | markDeparted (p : Port) (number : Half)
  | release (p : Port) (number : Half)
  | recordReply (p : Port) (member : Byte) (number : Half) (answer eta : Byte)
  | markArrived (p : Port) (member : Byte) (number : Half)
  | calloutReply
  | setAvailability (p : Port) (member availability : Byte)
  | writeMember (p : Port) (member inUse kind : Byte) (address : Three) (toneGroup quals : Byte) (groups : Half) (eta availability : Byte)
  | readMember (p : Port) (member : Byte)
  | writePlanStep (p : Port) (plan step kind : Byte) (groups : Half) (count toneGroup condition : Byte) (hold : Half) (repeats rate : Byte)
  | writeTemplate (p : Port) (plan officer driver wearer total : Byte) (target : Half)
  | readPlan (p : Port) (plan : Byte)
  | writeToneFrequency (p : Port) (index : Byte) (frequency : Half)
  | writeTonePair (p : Port) (toneGroup indexA indexB : Byte)
  | readToneTables (p : Port)
  | listCallouts (p : Port)
  | readCallout (p : Port) (number : Half)
  | readResponders (p : Port) (number : Half)
  | readCrew (p : Port) (number : Half)
  | readNotice (p : Port)
  | readStatus (p : Port)
  | setChannelParameters (p : Port) (station limit threshold mode level : Byte)
  | startChannel (p : Port) (pins : SitePins)
  | stopChannel (p : Port)
  | selectSite (p : Port) (site : Byte)
  | unknownRequest (p : Port) (code : Byte)
  | frameOpen (p : Port)
  | frameClose (p : Port)
  | oneSecondTick
  | holdExpiry
  | planPoint (pins : SitePins)
  | frameAssembly
  | toneCallStart
  | completion
  | keyedPeriodEnd
  | readyLoss (site : Site)
  | cellEnd
  | referenceLost
  | restoreGap
  | restored (pins : SitePins)
  | reset
  | resetEnd (pins : ResetPins)
  | selfTestEnd (results : GroupResults)
  | symbolTime (pins : RxPins)
  | sampleTime
deriving DecidableEq, Repr

end Sys2Proof
end

