-- ==== Sys2Proof/WellFormed.lean ====
section
/-! DEFINITION. Which commands the block can be given. The widths of the fields are carried by their types, so a request with
any field values is well formed (the owning rule answers a field out of range). One check is left: an Unknown request carries
a code that names no request. -/

namespace Sys2Proof

/-- The codes that name a request (R171). -/
def namedCodes : List Byte :=
  [1, 2, 3, 4, 5, 8, 9, 10, 16, 17, 24, 25, 26, 32, 33, 34, 40, 41, 42, 43, 48, 49, 56, 57, 58, 59]

/-- Whether a code byte names a request (R167, R171). -/
def namesRequest (code : Byte) : Bool := namedCodes.contains code

/-- A command the block can be given. -/
def Instr.wellFormed : Instr → Bool
  | .unknownRequest _ code => !namesRequest code
  | .raise _ _ _ _ _ _ => true
  | .cancel _ _ => true
  | .escalate _ _ _ => true
  | .markDeparted _ _ => true
  | .release _ _ => true
  | .recordReply _ _ _ _ _ => true
  | .markArrived _ _ _ => true
  | .calloutReply => true
  | .setAvailability _ _ _ => true
  | .writeMember _ _ _ _ _ _ _ _ _ _ => true
  | .readMember _ _ => true
  | .writePlanStep _ _ _ _ _ _ _ _ _ _ _ => true
  | .writeTemplate _ _ _ _ _ _ _ => true
  | .readPlan _ _ => true
  | .writeToneFrequency _ _ _ => true
  | .writeTonePair _ _ _ _ => true
  | .readToneTables _ => true
  | .listCallouts _ => true
  | .readCallout _ _ => true
  | .readResponders _ _ => true
  | .readCrew _ _ => true
  | .readNotice _ => true
  | .readStatus _ => true
  | .setChannelParameters _ _ _ _ _ _ => true
  | .startChannel _ _ => true
  | .stopChannel _ => true
  | .selectSite _ _ => true
  | .frameOpen _ => true
  | .frameClose _ => true
  | .oneSecondTick => true
  | .holdExpiry => true
  | .planPoint _ => true
  | .frameAssembly => true
  | .toneCallStart => true
  | .completion => true
  | .keyedPeriodEnd => true
  | .readyLoss _ => true
  | .cellEnd => true
  | .referenceLost => true
  | .restoreGap => true
  | .restored _ => true
  | .reset => true
  | .resetEnd _ => true
  | .selfTestEnd _ => true
  | .symbolTime _ => true
  | .sampleTime => true

end Sys2Proof
end

