-- ==== Sys2Proof/Decode.lean ====
section
/-! DEFINITION. Reading commands. spec/opcode_table.json gives no row any bits, so `decodeTableWord` reads no word. What the
spec does give is the bytes of a request frame (R164, R165, R171, 11.2): `decodeFrame` reads the request that a frame's bytes
spell, and `encodeFrame` writes the bytes of a request; `bytesOfBits` groups the bits of SDI into bytes, and `bitsOfBytes` puts
bytes on the line bit by bit. All are total. -/

namespace Sys2Proof

/-- The command a word spells by the table's bits: the table gives none of its rows bits, so there is none. -/
def decodeTableWord (_nbits _w : Nat) : Option Instr := none

/-- A two-byte field from its bytes, most significant first (R164). -/
def half (b1 b0 : Byte) : Half := b1 ++ b0

/-- A three-byte field from its bytes, most significant first (R164). -/
def three (b2 b1 b0 : Byte) : Three := b2 ++ b1 ++ b0

/-- A four-byte field from its bytes, most significant first (R164). -/
def quad (b3 b2 b1 b0 : Byte) : Quad := b3 ++ b2 ++ b1 ++ b0

/-- The bytes of a two-byte field, most significant first (R164). -/
def halfBytes (w : Half) : List Byte := [w.extractLsb' 8 8, w.extractLsb' 0 8]

/-- The bytes of a three-byte field, most significant first (R164). -/
def threeBytes (w : Three) : List Byte := [w.extractLsb' 16 8, w.extractLsb' 8 8, w.extractLsb' 0 8]

/-- The bytes of a four-byte field, most significant first (R164). -/
def quadBytes (w : Quad) : List Byte :=
  [w.extractLsb' 24 8, w.extractLsb' 16 8, w.extractLsb' 8 8, w.extractLsb' 0 8]

/-- The request bytes of a code, the code byte included; none for a code that names no request (R171). -/
def requestLength (code : Byte) : Option Nat :=
  match code.toNat with
  | 1 => some 11
  | 2 => some 3
  | 3 => some 4
  | 4 => some 3
  | 5 => some 3
  | 8 => some 6
  | 9 => some 4
  | 10 => some 3
  | 16 => some 13
  | 17 => some 2
  | 24 => some 13
  | 25 => some 8
  | 26 => some 2
  | 32 => some 4
  | 33 => some 4
  | 34 => some 1
  | 40 => some 1
  | 41 => some 3
  | 42 => some 3
  | 43 => some 3
  | 48 => some 1
  | 49 => some 1
  | 56 => some 6
  | 57 => some 1
  | 58 => some 1
  | 59 => some 2
  | _ => none

/-- A request whose one field is a callout number (11.2). -/
def numberField (make : Half → Instr) : List Byte → Option Instr
  | n1 :: n0 :: _ => some (make (half n1 n0))
  | _ => none

/-- A request whose one field is one byte (11.2). -/
def byteField (make : Byte → Instr) : List Byte → Option Instr
  | b :: _ => some (make b)
  | _ => none

/-- The fields of Raise (11.2). -/
def decodeRaise (p : Port) : List Byte → Option Instr
  | r3 :: r2 :: r1 :: r0 :: plan :: priority :: cls :: l2 :: l1 :: l0 :: _ =>
    some (.raise p (quad r3 r2 r1 r0) plan priority cls (three l2 l1 l0))
  | _ => none

/-- The fields of Escalate (11.2). -/
def decodeEscalate (p : Port) : List Byte → Option Instr
  | n1 :: n0 :: plan :: _ => some (.escalate p (half n1 n0) plan)
  | _ => none

/-- The fields of Record reply (11.2). -/
def decodeRecordReply (p : Port) : List Byte → Option Instr
  | m :: n1 :: n0 :: answer :: eta :: _ => some (.recordReply p m (half n1 n0) answer eta)
  | _ => none

/-- The fields of Mark arrived (11.2). -/
def decodeMarkArrived (p : Port) : List Byte → Option Instr
  | m :: n1 :: n0 :: _ => some (.markArrived p m (half n1 n0))
  | _ => none

/-- The fields of Set availability (11.2). -/
def decodeSetAvailability (p : Port) : List Byte → Option Instr
  | m :: v :: _ => some (.setAvailability p m v)
  | _ => none

/-- The fields of Write member (11.2). -/
def decodeWriteMember (p : Port) : List Byte → Option Instr
  | m :: inUse :: kind :: a2 :: a1 :: a0 :: tone :: quals :: g1 :: g0 :: eta :: avail :: _ =>
    some (.writeMember p m inUse kind (three a2 a1 a0) tone quals (half g1 g0) eta avail)
  | _ => none

/-- The fields of Write plan step (11.2). -/
def decodeWritePlanStep (p : Port) : List Byte → Option Instr
  | plan :: step :: kind :: g1 :: g0 :: n :: tone :: cond :: h1 :: h0 :: repeats :: rate :: _ =>
    some (.writePlanStep p plan step kind (half g1 g0) n tone cond (half h1 h0) repeats rate)
  | _ => none

/-- The fields of Write template (11.2). -/
def decodeWriteTemplate (p : Port) : List Byte → Option Instr
  | plan :: o :: d :: w :: total :: t1 :: t0 :: _ => some (.writeTemplate p plan o d w total (half t1 t0))
  | _ => none

/-- The fields of Write tone frequency (11.2). -/
def decodeWriteToneFrequency (p : Port) : List Byte → Option Instr
  | i :: f1 :: f0 :: _ => some (.writeToneFrequency p i (half f1 f0))
  | _ => none

/-- The fields of Write tone pair (11.2). -/
def decodeWriteTonePair (p : Port) : List Byte → Option Instr
  | g :: a :: b :: _ => some (.writeTonePair p g a b)
  | _ => none

/-- The fields of Set channel parameters (11.2). -/
def decodeSetChannelParameters (p : Port) : List Byte → Option Instr
  | st :: limit :: thr :: mode :: level :: _ => some (.setChannelParameters p st limit thr mode level)
  | _ => none

/-- The request that the bytes clocked in one frame at port `p` spell, the levels of the site lines at its take being
`pins`: none while the frame holds fewer bytes than its code takes. Bytes after the request are ignored (R164), and a code
that names no request is answered at its code byte whatever follows (R167). -/
def decodeFrame (p : Port) (pins : SitePins) : List Byte → Option Instr
  | [] => none
  | code :: rest =>
    match code.toNat with
    | 1 => decodeRaise p rest
    | 2 => numberField (.cancel p) rest
    | 3 => decodeEscalate p rest
    | 4 => numberField (.markDeparted p) rest
    | 5 => numberField (.release p) rest
    | 8 => decodeRecordReply p rest
    | 9 => decodeMarkArrived p rest
    | 10 => decodeSetAvailability p rest
    | 16 => decodeWriteMember p rest
    | 17 => byteField (.readMember p) rest
    | 24 => decodeWritePlanStep p rest
    | 25 => decodeWriteTemplate p rest
    | 26 => byteField (.readPlan p) rest
    | 32 => decodeWriteToneFrequency p rest
    | 33 => decodeWriteTonePair p rest
    | 34 => some (.readToneTables p)
    | 40 => some (.listCallouts p)
    | 41 => numberField (.readCallout p) rest
    | 42 => numberField (.readResponders p) rest
    | 43 => numberField (.readCrew p) rest
    | 48 => some (.readNotice p)
    | 49 => some (.readStatus p)
    | 56 => decodeSetChannelParameters p rest
    | 57 => some (.startChannel p pins)
    | 58 => some (.stopChannel p)
    | 59 => byteField (.selectSite p) rest
    | _ => some (.unknownRequest p code)

/-- The bits of bytes as they go over a data line, the most significant bit of each byte first (R164). -/
def bitsOfBytes (bytes : List Byte) : List Bool := bytes.flatMap fun b => (List.range 8).map b.getMsbD

/-- The byte that eight bits taken at SDI spell, the most significant first (R164). -/
def byteOfBits (b7 b6 b5 b4 b3 b2 b1 b0 : Bool) : Byte := BitVec.ofBoolListBE [b7, b6, b5, b4, b3, b2, b1, b0]

/-- The bits taken at SDI in a frame grouped into bytes of eight; the bits of a byte that is not whole yet spell none (R164). -/
def bytesOfBits : List Bool → List Byte
  | b7 :: b6 :: b5 :: b4 :: b3 :: b2 :: b1 :: b0 :: rest => byteOfBits b7 b6 b5 b4 b3 b2 b1 b0 :: bytesOfBits rest
  | _ => []

/-- The request that the bits clocked in one frame at port `p` spell: none up to the last bit of its last byte, at which it is
taken (R164 to R166). -/
def decodeBits (p : Port) (pins : SitePins) (bits : List Bool) : Option Instr := decodeFrame p pins (bytesOfBits bits)

/-- The port and the request bytes of a command that is a request (R171, 11.2); none for an event. A Start channel also
yields the levels of the site lines at its take, which no byte carries. -/
def encodeFrame : Instr → Option (Port × List Byte)
  | .raise p ref plan prio cls loc => some (p, 1 :: quadBytes ref ++ [plan, prio, cls] ++ threeBytes loc)
  | .cancel p n => some (p, 2 :: halfBytes n)
  | .escalate p n plan => some (p, 3 :: halfBytes n ++ [plan])
  | .markDeparted p n => some (p, 4 :: halfBytes n)
  | .release p n => some (p, 5 :: halfBytes n)
  | .recordReply p m n answer eta => some (p, 8 :: m :: halfBytes n ++ [answer, eta])
  | .markArrived p m n => some (p, 9 :: m :: halfBytes n)
  | .setAvailability p m v => some (p, [10, m, v])
  | .writeMember p m inUse kind address tone quals groups eta avail =>
    some (p, 16 :: m :: inUse :: kind :: threeBytes address ++ [tone, quals] ++ halfBytes groups ++ [eta, avail])
  | .readMember p m => some (p, [17, m])
  | .writePlanStep p plan step kind groups n tone cond hold repeats rate =>
    some (p, 24 :: plan :: step :: kind :: halfBytes groups ++ [n, tone, cond] ++ halfBytes hold ++ [repeats, rate])
  | .writeTemplate p plan o d w total target => some (p, 25 :: plan :: o :: d :: w :: total :: halfBytes target)
  | .readPlan p plan => some (p, [26, plan])
  | .writeToneFrequency p i f => some (p, 32 :: i :: halfBytes f)
  | .writeTonePair p g a b => some (p, [33, g, a, b])
  | .readToneTables p => some (p, [34])
  | .listCallouts p => some (p, [40])
  | .readCallout p n => some (p, 41 :: halfBytes n)
  | .readResponders p n => some (p, 42 :: halfBytes n)
  | .readCrew p n => some (p, 43 :: halfBytes n)
  | .readNotice p => some (p, [48])
  | .readStatus p => some (p, [49])
  | .setChannelParameters p st limit thr mode level => some (p, [56, st, limit, thr, mode, level])
  | .startChannel p _ => some (p, [57])
  | .stopChannel p => some (p, [58])
  | .selectSite p site => some (p, [59, site])
  | .unknownRequest p code => some (p, [code])
  | .calloutReply => none
  | .frameOpen _ => none
  | .frameClose _ => none
  | .oneSecondTick => none
  | .holdExpiry => none
  | .planPoint _ => none
  | .frameAssembly => none
  | .toneCallStart => none
  | .completion => none
  | .keyedPeriodEnd => none
  | .readyLoss _ => none
  | .cellEnd => none
  | .referenceLost => none
  | .restoreGap => none
  | .restored _ => none
  | .reset => none
  | .resetEnd _ => none
  | .selfTestEnd _ => none
  | .symbolTime _ => none
  | .sampleTime => none

/-- The levels of the site lines that a command samples at its take, for a Start channel; `pins` for every other command. -/
def takePins (pins : SitePins) : Instr → SitePins
  | .startChannel _ q => q
  | _ => pins

end Sys2Proof
end

