-- ==== Sys2Proof/Config.lean ====
section
/-! DEFINITION. The sizes, bounds and fixed times of the EJ-2416, every one a number of the manual, and one free value: the
edges that the reference clock gives while the part runs on its internal oscillator. The manual leaves no value of an effect
open; what it leaves to the cabinet (straps, select lines) is an operand of the command that samples it, and the levels that
`State.reset` takes stand beside it in Machine/State.lean (log entry 2). -/

namespace Sys2Proof.Config

/-- The symbol positions of one cycle at which the sections change (R112). -/
def outboundStart : Nat := 240
/-- First symbol of the reply section (R112). -/
def replyStart : Nat := 18000
/-- First symbol of the G section: the plan point (R112). -/
def planPointAt : Nat := 23760
/-- Length of a G section and of a lone G section (R112). -/
def leadLength : Nat := 240
/-- Length of one reply cell (R127). -/
def cellLength : Nat := 60
/-- Symbol times of the O section: the budget of a cycle plan (R116). -/
def outboundBudget : Nat := 17760
/-- Symbol times of tone A of a tone call (R145). -/
def toneALength : Nat := 2400
/-- Elapsed times, deadlines and arrival estimates saturate here (R33, R89). -/
def elapsedMax : Nat := 4095
/-- Entries of a responder list (R64). -/
def listCapacity : Nat := 24
/-- Notices of a port's queue (R174). -/
def queueCapacity : Nat := 32
/-- Erased values above which a cell is rejected (R154). -/
def erasureLimit : Nat := 16
/-- Ticks at which the fallback tick count saturates (R184). -/
def fallbackTicksMax : Nat := 65535
/-- Reference periods in one second (R183, R185). -/
def periodsPerSecond : Nat := 9830400
/-- The rising edges of REFCLK that arrive in the `n`-th period of the internal oscillator during fallback (R185). A free value:
the reference is outside the part and may be absent, slow or steady (log entry 21). -/
opaque referenceEdges : Nat → Nat
/-- The sample output at rest (R143). -/
def midScale : BitVec 12 := 2048#12

end Sys2Proof.Config
end

