-- ==== Sys2Proof/Machine/State.lean ====
section
/-! DEFINITION. The state of the EJ-2416 as plain data, block by block, and the state right after reset. A field that the
manual calls optional is an `Option` or the argument of the one constructor in which it is present, so a record cannot hold a
field that its kind, lifecycle or progress does not have. -/

namespace Sys2Proof.Machine

open Sys2Proof

/-! ### Indexes -/

/-- A member index, which is also the index of the member's reply cell (R1). -/
abbrev MemberIdx := Fin 96
/-- A plan index (R20). -/
abbrev PlanIdx := Fin 16
/-- A step index (R20). -/
abbrev StepIdx := Fin 8
/-- A slot of the callout table (R33). -/
abbrev SlotIdx := Fin 8
/-- A tone group (R5). -/
abbrev ToneGroup := Fin 16
/-- Group `g`, 1 to 12, is index `g - 1`, as in the bit sets of R188. -/
abbrev GroupIdx := Fin 12
/-- An index of the tone frequency table (R146). -/
abbrev ToneIdx := Fin 32

/-! ### The roster (chapter 1) -/

/-- The subset of {Officer, Driver, Wearer} that a member holds (R7). -/
structure Quals where
  officer : Bool
  driver : Bool
  wearer : Bool
deriving DecidableEq, Repr

/-- A member's pager and the fields that its kind holds (R3): an address and call groups for a Digital member, a tone group
for a Tone member, neither for a member without a pager. -/
inductive Pager where
  | absent
  | digital (address : BitVec 20) (groups : BitVec 12)
  | tone (group : ToneGroup)
deriving DecidableEq, Repr

/-- R9. -/
inductive Availability where
  | available | unavailable
deriving DecidableEq, Repr

/-- The party that set the availability last (R9). -/
inductive AvailabilitySource where
  | reset
  | port (p : Port)
  | pager
deriving DecidableEq, Repr

/-- The callout, by number, that holds a member (R13). -/
inductive Engagement where
  | free
  | responding (callout : Half)
  | assigned (callout : Half)
deriving DecidableEq, Repr

/-- One member record (R1). -/
structure Member where
  inUse : Bool
  pager : Pager
  quals : Quals
  defaultEta : Nat
  availability : Availability
  source : AvailabilitySource
  engagement : Engagement
  lastHeard : Option Half
deriving DecidableEq, Repr

/-! ### The plan table (chapter 2) -/

/-- R26. -/
inductive CodeRate where
  | half | twoThirds | threeQuarters
deriving DecidableEq, Repr

/-- R25. -/
inductive Condition where
  | always | ifShort | ifShortOrLate
deriving DecidableEq, Repr

/-- What a step does, with the parameter and the rate that its kind holds (R24). -/
inductive Action where
  | groupPage (groups : BitVec 12) (rate : CodeRate)
  | shortfallPage (count : Nat) (rate : CodeRate)
  | toneCall (group : ToneGroup)
  | aidRequest
deriving DecidableEq, Repr

/-- A step: End, which holds no field, or a step that acts (R24). -/
inductive PlanStep where
  | finish
  | act (action : Action) (condition : Condition) (hold repeats : Nat)
deriving DecidableEq, Repr

/-- A crew template (R22). All zero is the unwritten template of R21. -/
structure Template where
  officer : Nat
  driver : Nat
  wearer : Nat
  total : Nat
  target : Nat
deriving DecidableEq, Repr

/-- One plan (R20). -/
structure Plan where
  template : Template
  steps : Vector PlanStep 8
  usage : Nat
deriving DecidableEq, Repr

/-! ### The callout table (chapters 3 to 5) -/

/-- A set of ports (R33, R59). -/
structure PortSet where
  a : Bool
  b : Bool
  c : Bool
deriving DecidableEq, Repr

/-- What an item transmits, with its target and, for an alert, its rate (R46). -/
inductive ItemKind where
  | groupAlert (group : GroupIdx) (rate : CodeRate)
  | memberAlert (member : MemberIdx) (rate : CodeRate)
  | toneCall (group : ToneGroup)
  | standDown
  | closing
deriving DecidableEq, Repr

/-- A transmission item: its kind and the callout number and step serial it was enqueued under (R46). -/
structure TxItem where
  kind : ItemKind
  callout : Half
  serial : Byte
deriving DecidableEq, Repr

/-- The specific roles (R7). -/
inductive Role where
  | officer | driver | wearer
deriving DecidableEq, Repr

/-- A seat's role: a specific role or Crew (R86). -/
inductive SeatRole where
  | officer | driver | wearer | crew
deriving DecidableEq, Repr

/-- The seat field of a responder entry (R63). -/
inductive Seat where
  | seated (role : SeatRole)
  | standby
  | unseated
deriving DecidableEq, Repr

/-- R63. -/
inductive Answer where
  | attending | declined | arrived | withdrawn
deriving DecidableEq, Repr

/-- The party that set an entry last (R63). -/
inductive ReplySource where
  | radio
  | port (p : Port)
deriving DecidableEq, Repr

/-- One responder entry (R63). -/
structure Entry where
  member : MemberIdx
  answer : Answer
  eta : Option Nat
  source : ReplySource
  first : Nat
  latest : Nat
  estimate : Option Nat
  mark : Bool
  seat : Seat
deriving DecidableEq, Repr

/-- A number for each kind of seat: seat counts or missing counts (R86). -/
structure RoleCounts where
  officer : Nat
  driver : Nat
  wearer : Nat
  crew : Nat
deriving DecidableEq, Repr

/-- R99. -/
inductive CrewStatus where
  | short | late | ready
deriving DecidableEq, Repr

/-- One seat of the seat list (R86). -/
structure SeatRecord where
  role : SeatRole
  member : Option MemberIdx
deriving DecidableEq, Repr

/-- A crew assignment (R86). -/
structure Crew where
  applied : RoleCounts
  target : Nat
  roleOrder : List Role
  seats : List SeatRecord
  missing : RoleCounts
  status : CrewStatus
  ready : Option Nat
deriving DecidableEq, Repr

/-- R36. `due` marks a hold whose deadline a tick has reached and whose expiry has not been taken yet (R48; log entry 4). -/
inductive Progress where
  | queued
  | alerting
  | holding (deadline : Nat) (due : Bool)
  | exhausted
deriving DecidableEq, Repr

/-- The fields that a callout has only while it is Active (R33). -/
structure ActiveRun where
  progress : Progress
  repeatsLeft : Nat
  rate : Option CodeRate
deriving DecidableEq, Repr

/-- The lifecycle of a callout in a slot that is not Free (R35), with the fields present only in it (R33). -/
inductive Lifecycle where
  | active (run : ActiveRun)
  | departed
  | standingDown (sent : Nat)
deriving DecidableEq, Repr

/-- One callout record (R33). -/
structure Callout where
  number : Half
  reference : Quad
  cls : Byte
  location : BitVec 18
  origins : PortSet
  priority : BitVec 3
  lifecycle : Lifecycle
  plan : PlanIdx
  step : StepIdx
  serial : Byte
  elapsed : Nat
  pagedGroups : BitVec 12
  pagedMembers : List MemberIdx
  tonesCalled : BitVec 16
  queue : List TxItem
  entries : List Entry
  crew : Crew
deriving DecidableEq, Repr

/-- A callout reply on its way from the cell end to the callout engine (R67, R161). -/
structure HandOff where
  member : MemberIdx
  answer : Answer
  eta : Option Nat
  callout : Half
deriving DecidableEq, Repr

/-! ### The channel scheduler (chapter 6) -/

/-- R107. -/
inductive ChannelState where
  | stopped | running | stopping | suspended
deriving DecidableEq, Repr

/-- The cycle position (R112; log entry 5): the symbol that the next symbol time will take. `lead lone j` is symbol `j` of
the G section that a plan point opened, `lone` when no cycle precedes it; `cycle p` is symbol `p` of the B, O and R sections,
and `cycle 23760` is the moment at which the next plan point is due. -/
inductive CyclePos where
  | absent
  | lead (lone : Bool) (symbol : Nat)
  | cycle (symbol : Nat)
deriving DecidableEq, Repr

/-- R117. -/
inductive ItemState where
  | pending | onAir | sent | returned
deriving DecidableEq, Repr

/-- One entry of the cycle plan (R117). -/
structure PlannedItem where
  item : TxItem
  start : Nat
  cost : Nat
  state : ItemState
deriving DecidableEq, Repr

/-- 6.4. -/
inductive SiteMode where
  | request | pin
deriving DecidableEq, Repr

/-- R128. -/
inductive Quality where
  | good | poor
deriving DecidableEq, Repr

/-- The scheduler's state (chapter 6). -/
structure Channel where
  state : ChannelState
  cycle : Half
  pos : CyclePos
  plan : List PlannedItem
  selected : Site
  keyed : Option Site
  mode : SiteMode
  station : Byte
  distanceLimit : BitVec 3
  degradeThreshold : Nat
  level : BitVec 4
  quality : Quality
deriving DecidableEq, Repr

/-! ### The transmit path (chapter 7) -/

/-- The two increments fixed at the start of a tone call, with the start symbol of the call that they are fixed for (R145,
R117). -/
structure ToneInHand where
  start : Nat
  incrementA : BitVec 16
  incrementB : BitVec 16
deriving DecidableEq, Repr

/-- One entry of the tone pair table (R148). -/
structure TonePair where
  indexA : ToneIdx
  indexB : ToneIdx
deriving DecidableEq, Repr

/-- The transmit path's state (chapter 7). `frame` is the frame in hand and `assembled` the frame assembled one symbol time
before its start (log entry 6); `dacWord` is the word sent last on DSDO; `restoreWord` is set from a clock restore to the
first word after it (R143, log entry 7). -/
structure Transmit where
  encoder : BitVec 4
  puncture : Nat
  crc : BitVec 16
  frame : List Bool
  assembled : Option (List Bool)
  tone : Option ToneInHand
  phase : BitVec 16
  increment : BitVec 16
  sample : BitVec 12
  dacWord : Option (BitVec 12)
  restoreWord : Bool
  frequencies : Vector Half 32
  pairs : Vector TonePair 16
deriving DecidableEq, Repr

/-! ### The reply receiver (chapter 8) -/

/-- R151. -/
inductive RxValue where
  | unfilled | zero | one | erased
deriving DecidableEq, Repr

/-- R151. -/
inductive CarrierMark where
  | present | absent | unsampled
deriving DecidableEq, Repr

/-- The receiver's state (R151). -/
structure Receiver where
  buffer : Vector RxValue 56
  carrier : CarrierMark
  rejected : Nat
deriving DecidableEq, Repr

/-! ### The ports (chapter 9) -/

/-- R169. -/
inductive PortClass where
  | dispatch | station
deriving DecidableEq, Repr

/-- The frame state and, while it is Responding, the response in hand (R164, R165). -/
inductive FrameState where
  | closed
  | receiving
  | responding (response : List Byte)
deriving DecidableEq, Repr

/-- The kinds of notice (R172). `none` is the record that Read notice returns from an empty queue. -/
inductive NoticeKind where
  | none | raised | merged | crewStatus | planExhausted | aidNeeded | departed | freed | reply | listFull | availability
  | siteChanged | siteFault | clockFallback | clockRestored | receptionQuality | channelState
deriving DecidableEq, Repr

/-- A notice record (R190). -/
structure Notice where
  kind : NoticeKind
  callout : Half
  member : Byte
  v0 : Byte
  v1 : Byte
  v2 : Byte
  v3 : Byte
deriving DecidableEq, Repr

/-- One port (chapter 9). `selLow` is the level of its select line, true for low. -/
structure PortState where
  cls : PortClass
  frame : FrameState
  queue : List Notice
  overflow : Bool
  selLow : Bool
deriving DecidableEq, Repr

/-- The three ports. -/
structure Ports where
  a : PortState
  b : PortState
  c : PortState
deriving DecidableEq, Repr

/-! ### Supervision (chapter 10) -/

/-- The self-test state (R181). Passed and Fault mode are the two ways its end can read: no group failed, or any did. -/
inductive SelfTest where
  | testing
  | ended (results : GroupResults)
deriving DecidableEq, Repr

/-- R183. -/
inductive ClockSource where
  | reference | internal
deriving DecidableEq, Repr

/-- The restore qualification, with the reference periods run so far (R185). -/
inductive RestoreQual where
  | idle
  | measuring (periods : Nat)
deriving DecidableEq, Repr

/-- Supervision's state (chapter 10). `tickPhase` counts to a whole second, where the tick is due (R183). `held` is true while the part is held in reset (R180). -/
structure Supervision where
  held : Bool
  selfTest : SelfTest
  clock : ClockSource
  restore : RestoreQual
  tickPhase : Nat
  fallbackTicks : Nat
deriving DecidableEq, Repr

/-- The levels of the input pins as they were sampled last (signal summary; log entry 2). The select lines stand in
`PortState`. -/
structure Inputs where
  clsA : Bool
  clsB : Bool
  clsC : Bool
  rdyA : Bool
  rdyB : Bool
  site : Bool
  rxd : Bool
  rxe : Bool
  rxc : Bool
deriving DecidableEq, Repr

/-! ### The whole state -/

/-- The EJ-2416. `pending` is the model's queue of commands waiting, first in, first out, and `edgesRead` counts the free values
of `Config.referenceEdges` that have been read (log entry 21); every other field is the manual's. -/
structure State where
  pending : List Instr
  edgesRead : Nat
  roster : Vector Member 96
  plans : Vector Plan 16
  slots : Vector (Option Callout) 8
  serialCounter : Half
  handOffs : List HandOff
  channel : Channel
  tx : Transmit
  rx : Receiver
  ports : Ports
  sup : Supervision
  inputs : Inputs
deriving DecidableEq, Repr

/-- The EJ-2416 stops on no command: the manual names no condition on which the part halts, so there is no fault. -/
inductive Fault where
deriving DecidableEq, Repr

/-- Why a command has no meaning. -/
inductive Refusal where
  /-- Raised by `exec` alone, for a row of the opcode table that has no meaning yet; safe. No arm of `exec` raises it. -/
  | notModelled (mnemonic : String)
deriving DecidableEq, Repr

/-! ### Reset contents -/

/-- The reset contents of a member record (R2). -/
def Member.cleared : Member :=
  { inUse := false, pager := .absent, quals := ⟨false, false, false⟩, defaultEta := 0, availability := .unavailable,
    source := .reset, engagement := .free, lastHeard := none }

/-- The unwritten template (R21). -/
def Template.unwritten : Template := ⟨0, 0, 0, 0, 0⟩

/-- The reset contents of a plan (R21). -/
def Plan.cleared : Plan := { template := .unwritten, steps := Vector.replicate 8 .finish, usage := 0 }

/-- The reset values of the scheduler (chapter 6's state table). -/
def Channel.afterReset : Channel :=
  { state := .stopped, cycle := 0, pos := .absent, plan := [], selected := .a, keyed := none, mode := .request, station := 0,
    distanceLimit := 3, degradeThreshold := 8, level := 12, quality := .good }

/-- The reset values of the transmit path (chapter 7's state table). -/
def Transmit.afterReset : Transmit :=
  { encoder := 0, puncture := 0, crc := 65535, frame := [], assembled := none, tone := none, phase := 0, increment := 0,
    sample := Config.midScale, dacWord := none, restoreWord := false, frequencies := Vector.replicate 32 0,
    pairs := Vector.replicate 16 ⟨0, 0⟩ }

/-- The reset values of the receiver (R151). -/
def Receiver.afterReset : Receiver := { buffer := Vector.replicate 56 .unfilled, carrier := .unsampled, rejected := 0 }

/-- A port right after reset, its class taken from its strap (R177). -/
def PortState.afterReset (strapHigh selLow : Bool) : PortState :=
  { cls := if strapHigh then .station else .dispatch, frame := .closed, queue := [], overflow := false, selLow := selLow }

/-- Supervision right after reset (chapter 10's state table, R180): the self-test begins. -/
def Supervision.afterReset : Supervision :=
  { held := false, selfTest := .testing, clock := .reference, restore := .idle, tickPhase := 0, fallbackTicks := 0 }

/-- The part at the end of a reset that sampled `pins` (R180), with `inputs` the other levels, `pending` the commands
that wait and `edgesRead` the free values read. -/
def State.afterReset (pins : ResetPins) (inputs : Inputs) (pending : List Instr) (edgesRead : Nat) : State :=
  { pending := pending
    edgesRead := edgesRead
    roster := Vector.replicate 96 .cleared
    plans := Vector.replicate 16 .cleared
    slots := Vector.replicate 8 none
    serialCounter := 1
    handOffs := []
    channel := .afterReset
    tx := .afterReset
    rx := .afterReset
    ports := ⟨.afterReset pins.clsA pins.selLowA, .afterReset pins.clsB pins.selLowB, .afterReset pins.clsC pins.selLowC⟩
    sup := .afterReset
    inputs := { inputs with clsA := pins.clsA, clsB := pins.clsB, clsC := pins.clsC } }

/-- The straps and select lines of the typical cabinet (Introduction, Typical application): Ports A and B strapped to
Dispatch class, Port C to Station class, no port selected. DESIGN CHOICE, unsafe: the manual leaves the strapping to the
cabinet (log entry 2). -/
def typicalStraps : ResetPins := ⟨false, false, true, false, false, false⟩

/-- The levels of the other input pins before any has been sampled: all low or inactive. DESIGN CHOICE, unsafe (log entry 2). -/
def Inputs.unsampled : Inputs := ⟨false, false, false, false, false, false, false, false, false⟩

/-- The machine right after reset (R180): the self-test has begun. -/
def State.reset : State := State.afterReset typicalStraps .unsampled [] 0

end Sys2Proof.Machine
end

