-- ==== Sys2Proof/Machine/Ops.lean ====
section
/-! DEFINITION. The named operations over the state: ports and port sets, member records, callout slots, the notice queues,
the taking of a request, and the generic list operations the other files share. -/

namespace Sys2Proof.Machine

open Sys2Proof

/-! ### Lists -/

/-- `x` inserted into a list sorted by `lt`, before its equals. -/
def insertBy {α : Type} (lt : α → α → Bool) (x : α) : List α → List α
  | [] => [x]
  | y :: ys => if lt y x then y :: insertBy lt x ys else x :: y :: ys

/-- The list sorted by `lt`, equals in the order they stood. -/
def sortBy {α : Type} (lt : α → α → Bool) (l : List α) : List α := l.foldr (insertBy lt) []

/-- A list used as a set: `x` joins it unless it is there (Conventions: a set holds each element at most once). -/
def insertNew {α : Type} [DecidableEq α] (x : α) (l : List α) : List α := if x ∈ l then l else l ++ [x]

/-- The eight slots in slot order (R33). -/
def allSlots : List SlotIdx := List.finRange 8

/-- The 96 member indexes in order (R1). -/
def allMembers : List MemberIdx := List.finRange 96

/-- The groups of a bit set in ascending group number (R42). -/
def groupsOf (set : BitVec 12) : List GroupIdx := (List.finRange 12).filter fun g => set.getLsbD g

/-- The bit of one group (R188). -/
def groupBit (g : GroupIdx) : BitVec 12 := 1#12 <<< g.val

/-- The bit of one tone group (R189). -/
def toneBit (g : ToneGroup) : BitVec 16 := 1#16 <<< g.val

/-! ### Ports -/

/-- The record of one port. -/
def Ports.get (q : Ports) : Port → PortState
  | .a => q.a
  | .b => q.b
  | .c => q.c

/-- The ports with one record replaced. -/
def Ports.put (q : Ports) (p : Port) (x : PortState) : Ports :=
  match p with
  | .a => { q with a := x }
  | .b => { q with b := x }
  | .c => { q with c := x }

/-- The record of one port. -/
def State.port (s : State) (p : Port) : PortState := s.ports.get p

/-- The state with one port's record replaced. -/
def State.setPort (s : State) (p : Port) (x : PortState) : State := { s with ports := s.ports.put p x }

/-- Whether a port belongs to a set. -/
def PortSet.has (t : PortSet) : Port → Bool
  | .a => t.a
  | .b => t.b
  | .c => t.c

/-- The set of one port. -/
def PortSet.only (p : Port) : PortSet := ⟨p = .a, p = .b, p = .c⟩

/-- The union of two sets. -/
def PortSet.union (t u : PortSet) : PortSet := ⟨t.a || u.a, t.b || u.b, t.c || u.c⟩

/-- The set of all three ports. -/
def PortSet.every : PortSet := ⟨true, true, true⟩

/-- The ports of Station class (R169). -/
def State.stations (s : State) : PortSet :=
  ⟨s.ports.a.cls = .station, s.ports.b.cls = .station, s.ports.c.cls = .station⟩

/-- The interested ports of a callout: its origins and every port of Station class (R59). -/
def State.interested (s : State) (c : Callout) : PortSet := c.origins.union s.stations

/-! ### Supervision -/

/-- Whether the self-test runs (R181). -/
def State.testing (s : State) : Bool :=
  match s.sup.selfTest with
  | .testing => true
  | .ended _ => false

/-- Whether any group failed. -/
def anyFailed (r : GroupResults) : Bool := r.roster || r.callouts || r.plansAndTones || r.noticeQueues

/-- Whether the part is in fault mode: its self-test ended with a group failed (R181, R182). -/
def State.faultMode (s : State) : Bool :=
  match s.sup.selfTest with
  | .testing => false
  | .ended r => anyFailed r

/-- Whether symbol and sample times pass: the part is not held in reset and the reference clock is its source (R143, R184). -/
def State.clocked (s : State) : Bool := !s.sup.held && s.sup.clock = .reference

/-! ### Notices -/

/-- One notice offered to one port's queue (R174): appended while the queue holds fewer than 32, else dropped with the
overflow mark set. While the self-test runs it is dropped with the mark set (R177). -/
def PortState.offered (x : PortState) (testing : Bool) (n : Notice) : PortState :=
  if testing then { x with overflow := true }
  else if x.queue.length < Config.queueCapacity then { x with queue := x.queue ++ [n] }
  else { x with overflow := true }

/-- A notice raised to a set of ports: one copy offered to the queue of each (R173). -/
def State.raiseNotice (s : State) (routed : PortSet) (n : Notice) : State :=
  { s with ports :=
    { a := if routed.a then s.ports.a.offered s.testing n else s.ports.a
      b := if routed.b then s.ports.b.offered s.testing n else s.ports.b
      c := if routed.c then s.ports.c.offered s.testing n else s.ports.c } }

/-! ### Members -/

/-- One member record. -/
def State.member (s : State) (m : MemberIdx) : Member := s.roster[m]

/-- The state with one member record replaced. -/
def State.setMember (s : State) (m : MemberIdx) (x : Member) : State := { s with roster := s.roster.set m x }

/-- The state with one member's engagement written (R13). -/
def State.engage (s : State) (m : MemberIdx) (e : Engagement) : State :=
  s.setMember m { s.member m with engagement := e }

/-- The callout number that an engagement names (R13). -/
def Engagement.callout : Engagement → Option Half
  | .free => none
  | .responding c => some c
  | .assigned c => some c

/-- The state with every member whose engagement `which` admits made Free. -/
def State.disengage (s : State) (which : Engagement → Bool) : State :=
  { s with roster := s.roster.map fun x => if which x.engagement then { x with engagement := .free } else x }

/-- Whether a member is in use and of pager kind Digital (R3). -/
def Member.isDigital (x : Member) : Bool :=
  match x.pager with
  | .digital _ _ => x.inUse
  | _ => false

/-- The pager address of an in-use Digital member (R4). -/
def Member.address (x : Member) : Option (BitVec 20) :=
  match x.pager with
  | .digital address _ => if x.inUse then some address else none
  | _ => none

/-- The call groups a record holds: those of a Digital record, empty otherwise (R3). -/
def Member.groups (x : Member) : BitVec 12 :=
  match x.pager with
  | .digital _ groups => groups
  | _ => 0

/-! ### Plans -/

/-- The state with one plan replaced. -/
def State.setPlan (s : State) (i : PlanIdx) (x : Plan) : State := { s with plans := s.plans.set i x }

/-- Whether a plan is runnable: its step 0 is not End (R20). -/
def Plan.runnable (x : Plan) : Bool := x.steps[0] ≠ .finish

/-- A template is written when it is not the zero template of the reset contents: every stored crew total is at least 1
(R21, R23). -/
def Template.written (t : Template) : Bool := t.total ≠ 0

/-- One more callout runs plan `i` (R29). -/
def State.takeUpPlan (s : State) (i : PlanIdx) : State := s.setPlan i { s.plans[i] with usage := s.plans[i].usage + 1 }

/-- One callout fewer runs plan `i` (R29). -/
def State.leavePlan (s : State) (i : PlanIdx) : State := s.setPlan i { s.plans[i] with usage := s.plans[i].usage - 1 }

/-! ### Slots -/

/-- The state with one slot replaced; `none` frees it (R34). -/
def State.setSlot (s : State) (k : SlotIdx) (x : Option Callout) : State := { s with slots := s.slots.set k x }

/-- The first slot, in slot order, whose callout `wanted` admits, with the callout. -/
def State.findSlot (s : State) (wanted : Callout → Bool) : Option (SlotIdx × Callout) :=
  allSlots.findSome? fun k =>
    match s.slots[k] with
    | some c => if wanted c then some (k, c) else none
    | none => none

/-- The non-Free callout with a number (R33). -/
def State.lookup (s : State) (number : Half) : Option (SlotIdx × Callout) := s.findSlot fun c => c.number = number

/-- The lowest-numbered Free slot (R40). -/
def State.freeSlot (s : State) : Option SlotIdx := allSlots.find? fun k => s.slots[k].isNone

/-- Whether a callout is Active. -/
def Callout.isActive (c : Callout) : Bool :=
  match c.lifecycle with
  | .active _ => true
  | _ => false

/-- The tag: the callout number modulo 64 (R33). -/
def tagOf (number : Half) : BitVec 6 := number.setWidth 6

/-! ### Requests -/

/-- The nine results (R168), in the order of their codes. -/
inductive Result where
  | done | merged | busy | cls | range | state | full | fault | unknown
deriving DecidableEq, Repr

/-- The numeric value of a result (11.2). -/
def Result.code : Result → Byte
  | .done => 0
  | .merged => 1
  | .busy => 2
  | .cls => 3
  | .range => 4
  | .state => 5
  | .full => 6
  | .fault => 7
  | .unknown => 8

/-- Who may send a request (R170): any port; a Station-class port only; any port, with Fault in fault mode; a Station-class
port only, with Fault in fault mode. -/
inductive Permission where
  | any | stationOnly | anyUnlessFault | stationUnlessFault
deriving DecidableEq, Repr

/-- Whether a permission asks for Station class (R170). -/
def Permission.needsStation : Permission → Bool
  | .stationOnly => true
  | .stationUnlessFault => true
  | _ => false

/-- Whether fault mode refuses the request: Raise and Start channel (R167). -/
def Permission.needsWorking : Permission → Bool
  | .anyUnlessFault => true
  | .stationUnlessFault => true
  | _ => false

/-- Whether a port takes request bytes: its frame is Receiving and the part is not held in reset (R164, R180). -/
def State.listening (s : State) (p : Port) : Bool := !s.sup.held && (s.port p).frame = .receiving

/-- The port enters Responding with a response in hand (R165). -/
def State.respond (s : State) (p : Port) (bytes : List Byte) : State :=
  s.setPort p { s.port p with frame := .responding bytes }

/-- What a request did: the state it left and its response. -/
abbrev Taken := State × List Byte

/-- A request answered with a result alone, having done nothing (R165). -/
def refuse (s : State) (r : Result) : Taken := (s, [r.code])

/-- A request carried out: Done and its response fields. -/
def done (s : State) (fields : List Byte) : Taken := (s, Result.done.code :: fields)

/-- The result of the checks that stand before a request's own (R167), if one of them fails. -/
def State.gate (s : State) (p : Port) (perm : Permission) : Option Result :=
  if s.testing then some .busy
  else if perm.needsStation && (s.port p).cls = .dispatch then some .cls
  else if perm.needsWorking && s.faultMode then some .fault
  else none

/-- A known request taken at the last bit of its last byte (R165, R167): the checks of R167 in order, then the request's own
checks and effect, `body`, and the response in hand. A port that is not Receiving takes no request byte, so nothing happens
(R164; log entry 3). -/
def State.takeRequest (s : State) (p : Port) (perm : Permission) (body : State → Taken) : State :=
  if s.listening p then
    match s.gate p perm with
    | some r => s.respond p [r.code]
    | none => (body s).1.respond p (body s).2
  else s

end Sys2Proof.Machine
end

