-- ==== Sys2Proof/Machine/Operands.lean ====
section
/-! DEFINITION. The codings of request fields (R188) and of response fields (R189): how a byte is read as a value, and how a
value is reported as bytes. -/

namespace Sys2Proof.Machine

open Sys2Proof

/-! ### Request fields (R188) -/

/-- An index below `n`; none for a byte outside the range. -/
def readIndex (n : Nat) (b : Byte) : Option (Fin n) := if h : b.toNat < n then some ⟨b.toNat, h⟩ else none

/-- Availability: 0 Available, 1 Unavailable. -/
def readAvailability (b : Byte) : Option Availability :=
  if b = 0 then some .available else if b = 1 then some .unavailable else none

/-- The answer of a Record reply: 0 Attending, 1 Declined. -/
def readAnswer (b : Byte) : Option Answer := if b = 0 then some .attending else if b = 1 then some .declined else none

/-- The ETA of a Record reply: bit 7 is the present mark, bits 0 to 6 the minutes, stored as at most 30 (R68). -/
def readEta (b : Byte) : Option Nat := if b.getLsbD 7 then some (saturate 30 (b.extractLsb' 0 7).toNat) else none

/-- The qualifications of a bit set; other bits are ignored (R7). -/
def readQuals (b : Byte) : Quals := ⟨b.getLsbD 0, b.getLsbD 1, b.getLsbD 2⟩

/-- The groups 1 to 12 of a bit set; other bits are ignored (R6, R27). -/
def readGroups (w : Half) : BitVec 12 := w.setWidth 12

/-- Condition: 0 Always, 1 If short, 2 If short-or-late. -/
def readCondition (b : Byte) : Option Condition :=
  if b = 0 then some .always else if b = 1 then some .ifShort else if b = 2 then some .ifShortOrLate else none

/-- Code rate: 0 for 1/2, 1 for 2/3, 2 for 3/4. -/
def readRate (b : Byte) : Option CodeRate :=
  if b = 0 then some .half else if b = 1 then some .twoThirds else if b = 2 then some .threeQuarters else none

/-- Site: 0 A, 1 B. -/
def readSite (b : Byte) : Option Site := if b = 0 then some .a else if b = 1 then some .b else none

/-- Site mode: 0 Request, 1 Pin. -/
def readMode (b : Byte) : Option SiteMode := if b = 0 then some .request else if b = 1 then some .pin else none

/-! ### Response fields (R189)

A bit that no row of R189 names, in a coded byte or in a bit set, is sent as 0: bits 2 to 6 of an answer with its mark, bits 3, 6
and 7 of the port classes, bits 4 to 7 of the self-test results, bits 3 to 7 of qualifications and origins, bits 12 to 15 of a
group set. DESIGN CHOICE, unsafe: the manual does not say what these bits read (log entry 20). -/

/-- A number in one byte. -/
def byteOf (n : Nat) : Byte := BitVec.ofNat 8 n

/-- A number in two bytes. -/
def twoBytes (n : Nat) : List Byte := halfBytes (BitVec.ofNat 16 n)

/-- An optional number in one byte, 255 when absent. -/
def optByte (o : Option Nat) : Byte :=
  match o with
  | some n => byteOf n
  | none => 255

/-- An optional number in two bytes, 65,535 when absent. -/
def optTwoBytes (o : Option Nat) : List Byte :=
  match o with
  | some n => twoBytes n
  | none => [255, 255]

/-- A flag: 1 yes or set, 0 no or clear. -/
def flagByte (b : Bool) : Byte := if b then 1 else 0

/-- The code of a port in notices: 1 A, 2 B, 3 C (R190). -/
def portCode : Port → Byte
  | .a => 1
  | .b => 2
  | .c => 3

/-- Origins: bit 0 Port A, bit 1 Port B, bit 2 Port C; the other bits are 0 (log entry 20). -/
def PortSet.code (t : PortSet) : Byte := flagByte t.a + 2 * flagByte t.b + 4 * flagByte t.c

/-- Qualifications: bit 0 Officer, bit 1 Driver, bit 2 Wearer; the other bits are 0 (log entry 20). -/
def Quals.code (q : Quals) : Byte := flagByte q.officer + 2 * flagByte q.driver + 4 * flagByte q.wearer

/-- Availability: 0 Available, 1 Unavailable. -/
def Availability.code : Availability → Byte
  | .available => 0
  | .unavailable => 1

/-- Availability source: 0 Reset, 1 to 3 the ports, 4 Pager. -/
def AvailabilitySource.code : AvailabilitySource → Byte
  | .reset => 0
  | .port p => portCode p
  | .pager => 4

/-- Entry source: 0 Radio, 1 to 3 the ports. -/
def ReplySource.code : ReplySource → Byte
  | .radio => 0
  | .port p => portCode p

/-- Engagement state: 0 Free, 1 Responding, 2 Assigned. -/
def Engagement.code : Engagement → Byte
  | .free => 0
  | .responding _ => 1
  | .assigned _ => 2

/-- Lifecycle: 1 Active, 2 Departed, 3 Standing down; 0 is a Free slot. -/
def Lifecycle.code : Lifecycle → Byte
  | .active _ => 1
  | .departed => 2
  | .standingDown _ => 3

/-- Progress: 0 Queued, 1 Alerting, 2 Holding, 3 Exhausted. -/
def Progress.code : Progress → Byte
  | .queued => 0
  | .alerting => 1
  | .holding _ _ => 2
  | .exhausted => 3

/-- Code rate: 0 for 1/2, 1 for 2/3, 2 for 3/4. -/
def CodeRate.code : CodeRate → Byte
  | .half => 0
  | .twoThirds => 1
  | .threeQuarters => 2

/-- Condition: 0 Always, 1 If short, 2 If short-or-late. -/
def Condition.code : Condition → Byte
  | .always => 0
  | .ifShort => 1
  | .ifShortOrLate => 2

/-- An answer without its mark: 0 Attending, 1 Declined, 2 Arrived, 3 Withdrawn. -/
def Answer.code : Answer → Byte
  | .attending => 0
  | .declined => 1
  | .arrived => 2
  | .withdrawn => 3

/-- An answer with the engaged-elsewhere mark in bit 7; bits 2 to 6 are 0, DESIGN CHOICE (log entry 20). -/
def markedAnswer (a : Answer) (mark : Bool) : Byte := a.code + 128 * flagByte mark

/-- A seat's role: 0 Officer, 1 Driver, 2 Wearer, 3 Crew. -/
def SeatRole.code : SeatRole → Byte
  | .officer => 0
  | .driver => 1
  | .wearer => 2
  | .crew => 3

/-- A specific role: 0 Officer, 1 Driver, 2 Wearer. -/
def Role.code : Role → Byte
  | .officer => 0
  | .driver => 1
  | .wearer => 2

/-- A seat: the code of its role, 4 Standby, 5 none. -/
def Seat.code : Seat → Byte
  | .seated r => r.code
  | .standby => 4
  | .unseated => 5

/-- Crew status: 0 Short, 1 Late, 2 Ready. -/
def CrewStatus.code : CrewStatus → Byte
  | .short => 0
  | .late => 1
  | .ready => 2

/-- Channel state: 0 Stopped, 1 Running, 2 Stopping, 3 Suspended. -/
def ChannelState.code : ChannelState → Byte
  | .stopped => 0
  | .running => 1
  | .stopping => 2
  | .suspended => 3

/-- Site: 0 A, 1 B. -/
def siteCode : Site → Byte
  | .a => 0
  | .b => 1

/-- Keyed site: 0 A, 1 B, 2 none. -/
def keyedCode : Option Site → Byte
  | some s => siteCode s
  | none => 2

/-- Site mode: 0 Request, 1 Pin. -/
def SiteMode.code : SiteMode → Byte
  | .request => 0
  | .pin => 1

/-- Clock source: 0 Reference, 1 Internal. -/
def ClockSource.code : ClockSource → Byte
  | .reference => 0
  | .internal => 1

/-- Quality: 0 Good, 1 Poor. -/
def Quality.code : Quality → Byte
  | .good => 0
  | .poor => 1

/-- Self-test results: bit 0 Roster, bit 1 Callouts, bit 2 Plans and tone tables, bit 3 Notice queues, 1 for fail; bits 4 to 7
are 0, DESIGN CHOICE (log entry 20). -/
def resultsCode (r : GroupResults) : Byte :=
  flagByte r.roster + 2 * flagByte r.callouts + 4 * flagByte r.plansAndTones + 8 * flagByte r.noticeQueues

/-- Port classes: bits 0 to 2 are 1 for Station, bits 4 to 5 name the requesting port; bits 3, 6 and 7 are 0, DESIGN CHOICE
(log entry 20). -/
def classesCode (s : State) (p : Port) : Byte := s.stations.code + 16 * portCode p

/-- The code of a notice kind (R172). -/
def NoticeKind.code : NoticeKind → Byte
  | .none => 0
  | .raised => 1
  | .merged => 2
  | .crewStatus => 3
  | .planExhausted => 4
  | .aidNeeded => 5
  | .departed => 6
  | .freed => 7
  | .reply => 8
  | .listFull => 9
  | .availability => 10
  | .siteChanged => 11
  | .siteFault => 12
  | .clockFallback => 13
  | .clockRestored => 14
  | .receptionQuality => 15
  | .channelState => 16

/-- The eight bytes of a notice record (R190). -/
def Notice.bytes (n : Notice) : List Byte :=
  n.kind.code :: halfBytes n.callout ++ [n.member, n.v0, n.v1, n.v2, n.v3]

end Sys2Proof.Machine
end

