-- ==== Sys2Proof/Machine/Notices.lean ====
section
/-! DEFINITION. The notices that the blocks raise, each formed whole as R190 lays it out. -/

namespace Sys2Proof.Machine

open Sys2Proof

/-- The member index of a notice that concerns no member (9.4). -/
def noMember : Byte := 255

/-- The high byte of a two-byte value. -/
def hi (w : Half) : Byte := w.extractLsb' 8 8

/-- The low byte of a two-byte value. -/
def lo (w : Half) : Byte := w.extractLsb' 0 8

/-- The record that Read notice returns from an empty queue (R175, R190). -/
def Notice.empty : Notice := ⟨.none, 0, noMember, 0, 0, 0, 0⟩

/-- Raised (R40, R190). -/
def raisedNotice (c : Callout) (p : Port) (k : SlotIdx) : Notice :=
  ⟨.raised, c.number, noMember, byteOf c.plan, byteOf c.priority.toNat, portCode p, byteOf k⟩

/-- Merged, with the priority and origins after the merge (R39, R190). -/
def mergedNotice (c : Callout) (p : Port) : Notice :=
  ⟨.merged, c.number, noMember, byteOf c.priority.toNat, portCode p, c.origins.code, 0⟩

/-- The members holding seats, in seat-list order (R86). -/
def Crew.seated (w : Crew) : List MemberIdx := w.seats.filterMap (·.member)

/-- A notice that carries a crew's status, seated members and crew-ready estimate, 0 when absent (R55, R102, R190). -/
def crewNotice (kind : NoticeKind) (c : Callout) : Notice :=
  let estimate : Half := BitVec.ofNat 16 (c.crew.ready.getD 0)
  ⟨kind, c.number, noMember, c.crew.status.code, byteOf c.crew.seated.length, hi estimate, lo estimate⟩

/-- A notice that carries the four missing counts (R41, R44, R190). -/
def missingNotice (kind : NoticeKind) (c : Callout) : Notice :=
  ⟨kind, c.number, noMember, byteOf c.crew.missing.officer, byteOf c.crew.missing.driver, byteOf c.crew.missing.wearer,
    byteOf c.crew.missing.crew⟩

/-- Why a slot was freed (R57), in the order of the codes of R190. -/
inductive FreedReason where
  | released | stoodDown | cancelled | channelStopped
deriving DecidableEq, Repr

/-- R190. -/
def FreedReason.code : FreedReason → Byte
  | .released => 0
  | .stoodDown => 1
  | .cancelled => 2
  | .channelStopped => 3

/-- Freed (R57, R190). -/
def freedNotice (c : Callout) (why : FreedReason) : Notice := ⟨.freed, c.number, noMember, why.code, 0, 0, 0⟩

/-- Reply: the answer as recorded with its mark, the ETA, the source and the position in the list (R80, R190). -/
def replyNotice (c : Callout) (e : Entry) (source : ReplySource) : Notice :=
  ⟨.reply, c.number, byteOf e.member, markedAnswer e.answer e.mark, optByte e.eta, source.code,
    byteOf (c.entries.findIdx fun x => x.member = e.member)⟩

/-- List full: the answer that was dropped and its source (R81, R190). -/
def listFullNotice (c : Callout) (m : MemberIdx) (a : Answer) (source : ReplySource) : Notice :=
  ⟨.listFull, c.number, byteOf m, a.code, source.code, 0, 0⟩

/-- Availability, as stored after the change (R12, R190). -/
def availabilityNotice (m : MemberIdx) (x : Member) : Notice :=
  ⟨.availability, 0, byteOf m, x.availability.code, x.source.code, 0, 0⟩

/-- Why the selected site changed (R124), in the order of the codes of R190. -/
inductive SiteChangeCause where
  | request | pin | failover
deriving DecidableEq, Repr

/-- R190. -/
def SiteChangeCause.code : SiteChangeCause → Byte
  | .request => 0
  | .pin => 1
  | .failover => 2

/-- Site changed (R124, R190). -/
def siteChangedNotice (new old : Site) (why : SiteChangeCause) (cycle : Half) : Notice :=
  ⟨.siteChanged, 0, noMember, siteCode new * 16 + siteCode old, why.code, hi cycle, lo cycle⟩

/-- Why a site fault was raised (R124), in the order of the codes of R190. -/
inductive SiteFaultCause where
  | selectedNotReady | neitherReady | readyLost
deriving DecidableEq, Repr

/-- R190. -/
def SiteFaultCause.code : SiteFaultCause → Byte
  | .selectedNotReady => 0
  | .neitherReady => 1
  | .readyLost => 2

/-- Site fault: the site concerned, the site keyed after the event, and the items not sent (R124, R190). -/
def siteFaultNotice (site : Site) (keyed : Option Site) (why : SiteFaultCause) (unsent : Nat) (cycle : Half) : Notice :=
  ⟨.siteFault, 0, noMember, siteCode site * 64 + keyedCode keyed * 16 + why.code, byteOf unsent, hi cycle, lo cycle⟩

/-- Clock fallback, with the channel state before the loss (R184, R190). -/
def clockFallbackNotice (before : ChannelState) (cycle : Half) : Notice :=
  ⟨.clockFallback, 0, noMember, before.code, hi cycle, lo cycle, 0⟩

/-- Clock restored (R185, R190). -/
def clockRestoredNotice (ticks : Nat) (cycle : Half) : Notice :=
  ⟨.clockRestored, 0, noMember, hi (BitVec.ofNat 16 ticks), lo (BitVec.ofNat 16 ticks), hi cycle, lo cycle⟩

/-- Reception quality (R128, R190). -/
def qualityNotice (q : Quality) (count : Nat) (cycle : Half) : Notice :=
  ⟨.receptionQuality, 0, noMember, q.code, byteOf count, hi cycle, lo cycle⟩

/-- Why the channel state changed (R110), in the order of the codes of R190. -/
inductive ChannelCause where
  | start | stop | endOfCycle | clockLost | clockRestored
deriving DecidableEq, Repr

/-- R190. -/
def ChannelCause.code : ChannelCause → Byte
  | .start => 0
  | .stop => 1
  | .endOfCycle => 2
  | .clockLost => 3
  | .clockRestored => 4

/-- Channel state (R110, R190). -/
def channelStateNotice (new old : ChannelState) (why : ChannelCause) (cycle : Half) : Notice :=
  ⟨.channelState, 0, noMember, new.code * 16 + old.code, why.code, hi cycle, lo cycle⟩

end Sys2Proof.Machine
end

