-- ==== Sys2Proof/Machine/Crew.lean ====
section
/-! DEFINITION. The crew builder (chapter 5): a function from a callout's responder list, the candidates' qualifications and a
crew template to a crew assignment, and the writing back of its result. -/

namespace Sys2Proof.Machine

open Sys2Proof

/-- A candidate of an evaluation: its member, the stored arrival estimate and the qualifications the roster holds (R88). -/
structure Candidate where
  member : MemberIdx
  estimate : Nat
  quals : Quals
deriving DecidableEq, Repr

/-- Whether a member holds the qualification of a role (R7). -/
def Quals.has (q : Quals) : Role → Bool
  | .officer => q.officer
  | .driver => q.driver
  | .wearer => q.wearer

/-- The seats of a specific role in a template (R22). -/
def Template.seatsOf (t : Template) : Role → Nat
  | .officer => t.officer
  | .driver => t.driver
  | .wearer => t.wearer

/-- The Crew seats: the crew total less the three role seat counts (R86). -/
def Template.crewSeats (t : Template) : Nat := t.total - (t.officer + t.driver + t.wearer)

/-- Whether an entry's member is a candidate: its answer is Attending or Arrived (R91). -/
def Entry.isCandidate (e : Entry) : Bool :=
  match e.answer with
  | .attending => true
  | .arrived => true
  | _ => false

/-- The candidates of a responder list, in list order (R91). A candidate's entry holds an estimate (R63). DESIGN CHOICE, safe: one
without, which no run reaches, counts as 4,095 (log entry 14). -/
def candidatesOf (roster : Vector Member 96) (entries : List Entry) : List Candidate :=
  (entries.filter Entry.isCandidate).map fun e => ⟨e.member, e.estimate.getD Config.elapsedMax, roster[e.member].quals⟩

/-- One candidate ranks before another: by estimate, then by member index (R91). -/
def Candidate.ranksBefore (x y : Candidate) : Bool :=
  x.estimate < y.estimate || (x.estimate = y.estimate && x.member < y.member)

/-- The candidates in rank order (R91). -/
def ranked (l : List Candidate) : List Candidate := sortBy Candidate.ranksBefore l

/-- The number of candidates that hold a role's qualification. -/
def holders (l : List Candidate) (r : Role) : Nat := l.countP fun x => x.quals.has r

/-- The slack of a role: its holders less its seats (R92). -/
def slack (t : Template) (l : List Candidate) (r : Role) : Int := holders l r - t.seatsOf r

/-- The role order: the roles with a seat, by slack ascending, Officer before Driver before Wearer (R92). -/
def roleOrder (t : Template) (l : List Candidate) : List Role :=
  sortBy (fun x y => slack t l x < slack t l y) ([Role.officer, .driver, .wearer].filter fun r => 1 ≤ t.seatsOf r)

/-- An evaluation in progress: the unpicked candidates in rank order and the role seats filled, in the order of filling
(R93). -/
structure Filling where
  unpicked : List Candidate
  picks : List (Role × Candidate)
deriving DecidableEq, Repr

/-- The seats of a role already filled. -/
def Filling.filled (f : Filling) (r : Role) : Nat := f.picks.countP fun x => x.1 = r

/-- The unfilled seats of a role (R94). -/
def Filling.unfilled (f : Filling) (t : Template) (r : Role) : Nat := t.seatsOf r - f.filled r

/-- Whether role `y` is tight while a seat of role `x` is being filled (R94). -/
def Filling.tight (f : Filling) (t : Template) (x y : Role) : Bool :=
  y ≠ x && 1 ≤ f.unfilled t y && holders f.unpicked y ≤ f.unfilled t y

/-- Whether a candidate is protected while a seat of role `x` is being filled: it holds a tight role (R94). -/
def Filling.shielded (f : Filling) (t : Template) (x : Role) (c : Candidate) : Bool :=
  [Role.officer, .driver, .wearer].any fun y => f.tight t x y && c.quals.has y

/-- The pick for a seat of role `x`: the first-ranked unpicked holder that is not protected, or the first-ranked unpicked
holder when all are protected (R95). -/
def Filling.pick (f : Filling) (t : Template) (x : Role) : Option Candidate :=
  match f.unpicked.find? fun c => c.quals.has x && !f.shielded t x c with
  | some c => some c
  | none => f.unpicked.find? fun c => c.quals.has x

/-- `n` seats of role `x` filled one at a time; the filling of the role ends when no unpicked holder is left (R93). -/
def Filling.fillSeats (t : Template) (x : Role) : Nat → Filling → Filling
  | 0, f => f
  | n + 1, f =>
    match f.pick t x with
    | none => f
    | some c => Filling.fillSeats t x n { unpicked := f.unpicked.erase c, picks := f.picks ++ [(x, c)] }

/-- All role seats filled, role by role in the role order (R93). -/
def fillRoles (t : Template) (l : List Candidate) : Filling :=
  (roleOrder t l).foldl (fun f x => f.fillSeats t x (t.seatsOf x)) ⟨ranked l, []⟩

/-- The seats of one kind: the filled ones first, in the order of filling, then the unfilled (R86). -/
def seatGroup (role : SeatRole) (count : Nat) (members : List MemberIdx) : List SeatRecord :=
  (members.map fun m => ⟨role, some m⟩) ++ List.replicate (count - members.length) ⟨role, none⟩

/-- The crew status of a crew with these missing counts, estimate and target (R99). -/
def statusOf (missing : RoleCounts) (target : Nat) (ready : Nat) : CrewStatus :=
  if missing = ⟨0, 0, 0, 0⟩ then if ready ≤ target then .ready else .late else .short

/-- The crew assignment of a list of candidates under a template (R86, R92 to R99). -/
def assemble (t : Template) (l : List Candidate) : Crew :=
  let f := fillRoles t l
  let crew := f.unpicked.take t.crewSeats
  let of := fun r => (f.picks.filter fun x => x.1 = r).map fun x => x.2.member
  let missing : RoleCounts :=
    ⟨f.unfilled t .officer, f.unfilled t .driver, f.unfilled t .wearer, t.crewSeats - crew.length⟩
  let ready := (f.picks.map (·.2) ++ crew).foldl (fun n x => max n x.estimate) 0
  { applied := ⟨t.officer, t.driver, t.wearer, t.crewSeats⟩
    target := t.target
    roleOrder := roleOrder t l
    seats := seatGroup .officer t.officer (of .officer) ++ seatGroup .driver t.driver (of .driver) ++
      seatGroup .wearer t.wearer (of .wearer) ++ seatGroup .crew t.crewSeats (crew.map (·.member))
    missing := missing
    status := statusOf missing t.target ready
    ready := if missing = ⟨0, 0, 0, 0⟩ then some ready else none }

/-- The seat of an entry under an assignment: its role when seated, Standby for a candidate without a seat, none otherwise
(R100). -/
def seatIn (w : Crew) (e : Entry) : Seat :=
  if e.isCandidate then
    match w.seats.find? fun x => x.member = some e.member with
    | some x => .seated x.role
    | none => .standby
  else .unseated

/-- A callout with its crew evaluated afresh: the assignment and the seat of every entry (R88, R100). -/
def State.evaluated (s : State) (c : Callout) : Callout :=
  let crew := assemble s.plans[c.plan].template (candidatesOf s.roster c.entries)
  { c with crew := crew, entries := c.entries.map fun e => { e with seat := seatIn crew e } }

/-- The engagement that an entry's seat gives its member: Assigned for a seat, Responding for Standby; the crew builder
writes none for an entry that is no candidate (R101). -/
def State.engageEntry (number : Half) (s : State) (e : Entry) : State :=
  match e.seat with
  | .seated _ => s.engage e.member (.assigned number)
  | .standby => s.engage e.member (.responding number)
  | .unseated => s

/-- The crew builder's result written back: the callout record and the engagement of every candidate (R100, R101). -/
def State.settle (s : State) (k : SlotIdx) (c : Callout) : State :=
  c.entries.foldl (State.engageEntry c.number) (s.setSlot k (some c))

/-- Whether two assignments differ in status, in crew-ready estimate or in the set of seated members (R102). -/
def crewChanged (old new : Crew) : Bool :=
  old.status ≠ new.status || old.ready ≠ new.ready ||
    !(old.seated.all (· ∈ new.seated) && new.seated.all (· ∈ old.seated))

/-- The Crew status notice of an evaluation that replaced `old` by the crew of `c`, if it raises one (R102). -/
def State.raiseCrewStatus (s : State) (old : Crew) (c : Callout) : State :=
  if crewChanged old c.crew then s.raiseNotice (s.interested c) (crewNotice .crewStatus c) else s

end Sys2Proof.Machine
end

