-- ==== Sys2Proof/Machine/Engine.lean ====
section
/-! DEFINITION. The callout engine's shared operations (chapter 3): running a plan step by step, the step actions, the serial
numbers, the freeing of slots. -/

namespace Sys2Proof.Machine

open Sys2Proof

/-! ### Serial numbers (R37) -/

/-- The number after a callout number: 1 after 65,535, and never 0 (R37). -/
def nextNumber (n : Half) : Half := if n = 65535 then 1 else n + 1

/-- Whether a non-Free callout holds a tag (R37). -/
def State.tagInUse (s : State) (tag : BitVec 6) : Bool := (s.findSlot fun c => tagOf c.number = tag).isSome

/-- The first of the next `tries + 1` numbers from `n` on whose tag no non-Free callout holds (R37). -/
def State.candidateNumber (s : State) : Nat → Half → Half
  | 0, n => n
  | tries + 1, n => if s.tagInUse (tagOf n) then s.candidateNumber tries (nextNumber n) else n

/-- The callout number of an allocation: at most seven candidates are passed over (R37). -/
def State.newNumber (s : State) : Half := s.candidateNumber 7 s.serialCounter

/-! ### The callout record -/

/-- A callout with another run of its Active fields. -/
def Callout.withRun (c : Callout) (run : ActiveRun) : Callout := { c with lifecycle := .active run }

/-- The next step serial, wrapping from 255 to 0 (R49). -/
def Callout.bumped (c : Callout) : Callout := { c with serial := c.serial + 1 }

/-- A callout with its progress replaced; a callout that is not Active has none (R36). -/
def Callout.withProgress (c : Callout) (p : Progress) : Callout :=
  match c.lifecycle with
  | .active run => c.withRun { run with progress := p }
  | _ => c

/-- Holding from now for `hold` seconds (R41, R47): the deadline saturates at 4,095. -/
def Callout.heldFor (c : Callout) (hold : Nat) : Progress := .holding (saturate Config.elapsedMax (c.elapsed + hold)) false

/-- Whether a condition is true of a crew status (R25). -/
def Condition.holds : Condition → CrewStatus → Bool
  | .always, _ => true
  | .ifShort, st => st = .short
  | .ifShortOrLate, st => st = .short || st = .late

/-- The rate that a step's frames start at; none for a Tone call or an Aid request (R24, R41). -/
def Action.rate : Action → Option CodeRate
  | .groupPage _ r => some r
  | .shortfallPage _ r => some r
  | .toneCall _ => none
  | .aidRequest => none

/-- One rate stronger, for a repeat (R26, R48). -/
def CodeRate.stronger : CodeRate → CodeRate
  | .threeQuarters => .twoThirds
  | .twoThirds => .half
  | .half => .half

/-! ### Step actions (R42 to R45) -/

/-- An item of a callout under its present serial (R46). -/
def Callout.item (c : Callout) (kind : ItemKind) : TxItem := ⟨kind, c.number, c.serial⟩

/-- Whether a member is useful to the crew of a callout (R45). -/
def usefulTo (missing : RoleCounts) (q : Quals) : Bool :=
  if missing.officer = 0 ∧ missing.driver = 0 ∧ missing.wearer = 0 then 0 < missing.crew
  else (0 < missing.officer && q.officer) || (0 < missing.driver && q.driver) || (0 < missing.wearer && q.wearer)

/-- Whether a member is eligible for a shortfall page of a callout (R45). -/
def State.eligible (s : State) (c : Callout) (m : MemberIdx) : Bool :=
  (s.member m).isDigital && (s.member m).availability = .available && (s.member m).engagement = .free &&
    !(c.entries.any fun e => e.member = m) && usefulTo c.crew.missing (s.member m).quals

/-- The order of a shortfall selection: by default ETA, then by member index (R8, R45). -/
def State.pagedBefore (s : State) (x y : MemberIdx) : Bool :=
  (s.member x).defaultEta < (s.member y).defaultEta || ((s.member x).defaultEta = (s.member y).defaultEta && x < y)

/-- The members that a shortfall page with maximum count `n` takes, in order (R45). -/
def State.shortfall (s : State) (c : Callout) (n : Nat) : List MemberIdx :=
  (sortBy s.pagedBefore (allMembers.filter (s.eligible c))).take n

/-- A callout with items put at the tail of its queue. -/
def Callout.enqueue (c : Callout) (kinds : List ItemKind) : Callout :=
  { c with queue := c.queue ++ kinds.map c.item }

/-- What a step's action enqueues, at a rate, and the callout with its paged sets grown (R42 to R45). -/
def State.act (s : State) (c : Callout) (rate : CodeRate) : Action → List ItemKind × Callout
  | .groupPage groups _ =>
    ((groupsOf groups).map fun g => .groupAlert g rate, { c with pagedGroups := c.pagedGroups ||| groups })
  | .shortfallPage n _ =>
    ((s.shortfall c n).map fun m => .memberAlert m rate,
      { c with pagedMembers := (s.shortfall c n).foldl (fun l m => insertNew m l) c.pagedMembers })
  | .toneCall g => ([.toneCall g], { c with tonesCalled := c.tonesCalled ||| toneBit g })
  | .aidRequest => ([], c)

/-- The Aid needed notice of an Aid request (R44). -/
def State.raiseAid (s : State) (c : Callout) : Action → State
  | .aidRequest => s.raiseNotice (s.interested c) (missingNotice .aidNeeded c)
  | _ => s

/-- A step's action taken for a callout with this run: its items are enqueued at the run's rate, its notice is raised, and the
callout becomes Queued, or Holding when nothing was enqueued (R41 items 6 and 7, R48). -/
def State.takeAction (s : State) (k : SlotIdx) (c : Callout) (run : ActiveRun) (action : Action) (hold : Nat) : State :=
  let acted := s.act c (run.rate.getD .half) action
  let after := if acted.1.isEmpty then c.heldFor hold else .queued
  (s.raiseAid c action).setSlot k (some ((acted.2.enqueue acted.1).withRun { run with progress := after }))

/-- Exhausted: the plan has no further step (R41 items 2 and 3). -/
def State.exhaust (s : State) (k : SlotIdx) (c : Callout) : State :=
  let s' := if c.crew.status = .short then s.raiseNotice (s.interested c) (missingNotice .planExhausted c) else s
  s'.setSlot k (some (c.withRun ⟨.exhausted, 0, none⟩))

/-- A step start at step `i`, the plan's steps from `i` on being `steps` (R41). Past step 7 the step stays as it is. A false
condition starts the next step at once. -/
def State.startSteps (s : State) (k : SlotIdx) : List PlanStep → Nat → Callout → State
  | [], _, c => s.exhaust k c.bumped
  | .finish :: _, i, c => s.exhaust k { c.bumped with step := Fin.ofNat 8 i }
  | .act action condition hold repeats :: rest, i, c =>
    let c' := { c.bumped with step := Fin.ofNat 8 i }
    if condition.holds c.crew.status then s.takeAction k c' ⟨.queued, repeats, action.rate⟩ action hold
    else s.startSteps k rest (i + 1) (c'.withRun ⟨.queued, repeats, action.rate⟩)

/-- The start of step `i`, 0 to 8, of a callout's plan (R41). -/
def State.startStep (s : State) (k : SlotIdx) (i : Nat) (c : Callout) : State :=
  s.startSteps k (s.plans[c.plan].steps.toList.drop i) i c

/-- The expiry of a hold (R48): a repeat of the current step while repeats are left and its condition is true, and otherwise
the start of the next step. -/
def State.expireHold (s : State) (k : SlotIdx) (c : Callout) (run : ActiveRun) : State :=
  match s.plans[c.plan].steps[c.step] with
  | .act action condition hold _ =>
    if 0 < run.repeatsLeft ∧ condition.holds c.crew.status then
      s.takeAction k c.bumped { run with repeatsLeft := run.repeatsLeft - 1, rate := run.rate.map CodeRate.stronger } action hold
    else s.startStep k (c.step.val + 1) c
  | .finish => s.startStep k (c.step.val + 1) c

/-! ### Lifecycle -/

/-- Whether an engagement is to a callout, Responding or Assigned (R13). -/
def Engagement.isTo (number : Half) (e : Engagement) : Bool := e.callout = some number

/-- A slot freed, with its Freed notice to the interested ports as they stood before (R34, R57). -/
def State.free (s : State) (k : SlotIdx) (c : Callout) (why : FreedReason) : State :=
  (s.setSlot k none).raiseNotice (s.interested c) (freedNotice c why)

/-- The engine's action on one slot when the channel becomes Stopped (R58). -/
def State.stopSlot (s : State) (k : SlotIdx) : State :=
  match s.slots[k] with
  | none => s
  | some c =>
    match c.lifecycle with
    | .standingDown _ => s.free k c .channelStopped
    | .departed => s.setSlot k (some { c with queue := [] })
    | .active _ => s

/-- The engine's action on every slot, in slot order, when the channel becomes Stopped (R58). -/
def State.stopSlots (s : State) : State := allSlots.foldl State.stopSlot s

/-- Whether the channel is Running or Suspended, so that stand-downs and closings can be sent (R53, R55). -/
def ChannelState.willSend : ChannelState → Bool
  | .running => true
  | .suspended => true
  | _ => false

end Sys2Proof.Machine
end

