-- ==== Sys2Proof/Machine/Flags.lean ====
section
/-! DEFINITION. The conditions that the manual states over the state: the output lines that follow it, and the events of the
cycle that are due at the present position. -/

namespace Sys2Proof.Machine

open Sys2Proof

/-! ### Output lines -/

/-- Whether a port's attention line is active: its queue holds a notice or its overflow mark is set (R176), and the part is
not held in reset (R180). DESIGN CHOICE, unsafe: where an offer to an empty queue is taken before a Read notice, the line ends
inactive, as R176 gives, though the first item of R179 says that it ends active (log entry 19). -/
def State.attention (s : State) (p : Port) : Bool :=
  !s.sup.held && (!(s.port p).queue.isEmpty || (s.port p).overflow)

/-- Whether a port drives SDO: a frame is open (R164). -/
def State.drivesData (s : State) (p : Port) : Bool := (s.port p).frame ≠ .closed

/-- Byte `n` of the response in hand as it is clocked out: zero once the response has been sent whole (R164). -/
def State.responseByte (s : State) (p : Port) (n : Nat) : Byte :=
  match (s.port p).frame with
  | .responding bytes => bytes.getD n 0
  | _ => 0

/-- Bit `n` that a port presents on SDO, counted from the first byte clocked in the present phase of its frame: the bits of each
byte of the response in hand, most significant first, and zeros while the request is received and after the response. None while
the frame is closed: the line is then high impedance (R164). -/
def State.responseBit (s : State) (p : Port) (n : Nat) : Option Bool :=
  if s.drivesData p then some ((s.responseByte p (n / 8)).getMsbD (n % 8)) else none

/-- Whether a site's PTT output is asserted (R122). -/
def State.ptt (s : State) (site : Site) : Bool := s.channel.keyed = some site

/-- The word of the last sample time as it goes out on DSDO and DSFS: its twelve bits, most significant first, each with the
level of DSFS, which marks the first; no bit when no word is sent (R143). -/
def State.dacBits (s : State) : List (Bool × Bool) :=
  match s.tx.dacWord with
  | some word => (List.range 12).map fun i => (word.getMsbD i, i = 0)
  | none => []

/-! ### The cycle plan -/

/-- Whether an item is sent as a frame (R115). -/
def ItemKind.isFrame : ItemKind → Bool
  | .toneCall _ => false
  | _ => true

/-- The symbol after an item's last (R117). -/
def PlannedItem.finish (e : PlannedItem) : Nat := e.start + e.cost

/-- Whether an item is still to be sent (R47, R123). -/
def PlannedItem.unsent (e : PlannedItem) : Bool :=
  match e.state with
  | .pending => true
  | .onAir => true
  | _ => false

/-- Where the keyed period of a plan ends: after its last item, or at the end of the B section (R122). -/
def periodEnd (plan : List PlannedItem) : Nat :=
  match plan.getLast? with
  | some e => e.finish
  | none => Config.outboundStart

/-! ### Events due at the present position

The position names the symbol about to begin. An event that falls at the end of a symbol, or at the start of the next, is due
when the position has come to that next symbol, and is taken before the symbol time that follows (log entry 5). -/

/-- The item On air whose last symbol has ended (R125). -/
def State.completing (s : State) : Option PlannedItem :=
  s.channel.plan.find? fun e => e.state = .onAir && s.channel.pos = .cycle e.finish

/-- The planned frame whose assembly is due: the next symbol precedes its start symbol (R134). -/
def State.assembling (s : State) : Option PlannedItem :=
  if s.tx.assembled.isSome then none
  else s.channel.plan.find? fun e => e.state = .pending && e.item.kind.isFrame && s.channel.pos = .cycle (e.start - 1)

/-- The planned tone call whose start symbol is the next and whose increments have not been fixed (R145). -/
def State.startingTone (s : State) : Option PlannedItem :=
  s.channel.plan.find? fun e => e.state = .pending && !e.item.kind.isFrame && s.channel.pos = .cycle e.start &&
    s.tx.tone.map (·.start) ≠ some e.start

/-- Whether the keyed period ends here (R122). -/
def State.periodEnding (s : State) : Bool :=
  s.channel.keyed.isSome && s.channel.pos = .cycle (periodEnd s.channel.plan)

/-- The reply cell that ends at a position: cell `k` ends when the position has come to 18,000 + 60 (k + 1) (R127). -/
def cellEndingAt (p : Nat) : Option MemberIdx :=
  if Config.replyStart < p ∧ p ≤ Config.planPointAt ∧ (p - Config.replyStart) % Config.cellLength = 0 then
    let k := (p - Config.replyStart) / Config.cellLength - 1
    if h : k < 96 then some ⟨k, h⟩ else none
  else none

/-- The reply cell whose end is due: it has been sampled and not decided yet (R153). -/
def State.endingCell (s : State) : Option MemberIdx :=
  match s.channel.pos with
  | .cycle p => if s.rx.carrier = .unsampled then none else cellEndingAt p
  | _ => none

/-- Whether the channel runs cycles (R107, R127). -/
def ChannelState.cycling : ChannelState → Bool
  | .running => true
  | .stopping => true
  | _ => false

/-- Whether a plan point is due: the G section begins, and the last cell of the reply section has been decided (R112, R114). -/
def State.planPointDue (s : State) : Bool :=
  s.channel.state.cycling && s.channel.pos = .cycle Config.planPointAt && s.endingCell.isNone

/-- Whether the tick is due: the phase has completed a second (R183). -/
def State.tickDue (s : State) : Bool := Config.periodsPerSecond ≤ s.sup.tickPhase

/-- Whether the restore is due: the measurement has reached 1 s of unbroken reference (R185). -/
def State.restoreDue (s : State) : Bool :=
  match s.sup.restore with
  | .idle => false
  | .measuring n => Config.periodsPerSecond ≤ n

/-- Whether an event of the cycle is due before the next symbol time. -/
def State.eventDue (s : State) : Bool :=
  s.completing.isSome || s.assembling.isSome || s.startingTone.isSome || s.periodEnding || s.endingCell.isSome
    || s.planPointDue

end Sys2Proof.Machine
end

