-- ==== Sys2Proof/Machine/Coding.lean ====
section
/-! DEFINITION. Frames on air: the 80 data bits, the CRC-16, the convolutional code, puncturing and the sync patterns
(R134 to R139, R187), and the CRC-4 of a reply burst (R158). A list of bits stands in the order of transmission. -/

namespace Sys2Proof.Machine

open Sys2Proof

/-- The bits of a field, most significant first (R187). -/
def bitsOf {w : Nat} (x : BitVec w) : List Bool := (List.range w).map x.getMsbD

/-- `n` positions that a frame kind does not carry (R187). -/
def zeros (n : Nat) : List Bool := List.replicate n false

/-! ### CRC (R136, R158) -/

/-- One bit taken into the CRC-16 register, generator x^16 + x^12 + x^5 + 1 (R136). -/
def crc16Step (reg : BitVec 16) (b : Bool) : BitVec 16 :=
  if b ^^ reg.msb then (reg <<< 1) ^^^ 0x1021#16 else reg <<< 1

/-- The CRC-16 of a frame's data bits (R136). -/
def crc16 (data : List Bool) : BitVec 16 := data.foldl crc16Step 65535

/-- One bit taken into the CRC-4 register, generator x^4 + x + 1 (R158). -/
def crc4Step (reg : BitVec 4) (b : Bool) : BitVec 4 := if b ^^ reg.msb then (reg <<< 1) ^^^ 0x3#4 else reg <<< 1

/-- The CRC-4 of a burst's first 20 bits (R158). -/
def crc4 (bits : List Bool) : BitVec 4 := bits.foldl crc4Step 0

/-! ### Convolutional code (R137) -/

/-- The two coded symbols of an input bit; bit `j` of the register holds `b[n - 1 - j]` (R137). -/
def codedPair (reg : BitVec 4) (b : Bool) : Bool × Bool :=
  (b ^^ reg.getLsbD 2 ^^ reg.getLsbD 3, b ^^ reg.getLsbD 0 ^^ reg.getLsbD 1 ^^ reg.getLsbD 3)

/-- An input bit shifted into the register (R137). -/
def shiftIn (reg : BitVec 4) (b : Bool) : BitVec 4 := (reg <<< 1) ||| (if b then 1#4 else 0#4)

/-- The coded symbols of a bit sequence, a pair for each bit (R137). -/
def codedPairs : BitVec 4 → List Bool → List (Bool × Bool)
  | _, [] => []
  | reg, b :: rest => codedPair reg b :: codedPairs (shiftIn reg b) rest

/-! ### Puncturing (R138) -/

/-- The period of a rate's puncture pattern (R138). -/
def CodeRate.period : CodeRate → Nat
  | .half => 1
  | .twoThirds => 2
  | .threeQuarters => 3

/-- The symbols of a pair that a pattern keeps at a puncture position (R138). -/
def keptAt (rate : CodeRate) (position : Nat) (pair : Bool × Bool) : List Bool :=
  match rate, position with
  | .half, _ => [pair.1, pair.2]
  | _, 0 => [pair.1, pair.2]
  | .twoThirds, _ => [pair.1]
  | .threeQuarters, 1 => [pair.2]
  | .threeQuarters, _ => [pair.1]

/-- The symbols kept of a coded sequence, from a puncture position on (R138). -/
def punctured (rate : CodeRate) : Nat → List (Bool × Bool) → List Bool
  | _, [] => []
  | position, pair :: rest => keptAt rate position pair ++ punctured rate ((position + 1) % rate.period) rest

/-! ### Frames (R134 to R136, R139, R187) -/

/-- A bit pattern of the manual, the first symbol on the left, as the bits of a number. -/
def beaconSync : List Bool := bitsOf 0b111011010100011000110010#24

/-- The sync pattern of every frame but the beacon (R139). -/
def frameSync : List Bool := bitsOf 0b000100101011100111001101#24

/-- The encoder input of a frame: its data bits, their CRC-16, and four tail zeros (R136). -/
def encoderInput (data : List Bool) : List Bool := data ++ bitsOf (crc16 data) ++ zeros 4

/-- The coded symbols of a frame's data bits at a rate (R137, R138). -/
def codedSymbols (data : List Bool) (rate : CodeRate) : List Bool := punctured rate 0 (codedPairs 0 (encoderInput data))

/-- The 80 data bits of an alert (R187). -/
def alertBits (kind : BitVec 4) (address : BitVec 20) (number : Half) (priority step : BitVec 3) (cls : Byte)
    (location : BitVec 18) (station : Byte) : List Bool :=
  bitsOf kind ++ bitsOf address ++ bitsOf number ++ bitsOf priority ++ bitsOf step ++ bitsOf cls ++ bitsOf location ++
    bitsOf station

/-- The 80 data bits of a Stand-down or a Closing (R187). -/
def noticeBits (kind : BitVec 4) (number : Half) (station : Byte) : List Bool :=
  bitsOf kind ++ zeros 20 ++ bitsOf number ++ zeros 32 ++ bitsOf station

/-- The 80 data bits of a beacon; the wake mask goes out with group 1 first (R187). -/
def beaconBits (cycle : Half) (station : Byte) (wake : BitVec 12) (others : Bool) (keyed : Site) : List Bool :=
  bitsOf 1#4 ++ bitsOf cycle ++ bitsOf station ++ (List.range 12).map wake.getLsbD ++ [others, keyed = .b] ++ zeros 38

/-- The address of a Member alert: the pager address of its target as the roster holds it, 0 for a target that is not in use
or not Digital (R134). -/
def State.alertAddress (s : State) (m : MemberIdx) : BitVec 20 := (s.member m).address.getD 0

/-- The data bits of an alert for an item, with the fields of the callout record that holds the item's number, or zeros when
no non-Free record holds it (R134). -/
def State.alertData (s : State) (kind : BitVec 4) (address : BitVec 20) (number : Half) : List Bool :=
  match s.lookup number with
  | some (_, c) =>
    alertBits kind address number c.priority (BitVec.ofNat 3 c.step.val) c.cls c.location s.channel.station
  | none => alertBits kind address number 0 0 0 0 s.channel.station

/-- The data bits of a planned frame from the sources as they stand (R134, R187). A tone call has no frame. -/
def State.frameData (s : State) (i : TxItem) : List Bool :=
  match i.kind with
  | .groupAlert g _ => s.alertData 2#4 (BitVec.ofNat 20 (g.val + 1)) i.callout
  | .memberAlert m _ => s.alertData 3#4 (s.alertAddress m) i.callout
  | .standDown => noticeBits 4#4 i.callout s.channel.station
  | .closing => noticeBits 5#4 i.callout s.channel.station
  | .toneCall _ => []

/-- The rate of an item's frame: that of the item, and 1/2 for a Stand-down or a Closing (R46). -/
def ItemKind.frameRate : ItemKind → CodeRate
  | .groupAlert _ r => r
  | .memberAlert _ r => r
  | _ => .half

/-- The transmit path's registers after a frame with these data bits has been encoded at a rate: the tail leaves the encoder
register at zero, and the other two stay as the last bit left them (R136 to R138; log entry 8). -/
def Transmit.encoded (x : Transmit) (data : List Bool) (rate : CodeRate) : Transmit :=
  { x with
    crc := crc16 data
    encoder := (encoderInput data).foldl shiftIn 0
    puncture := (encoderInput data).length % rate.period }

/-- The cost of an item in symbol times (R115). -/
def ItemKind.cost : ItemKind → Nat
  | .toneCall _ => 9600
  | k =>
    match k.frameRate with
    | .half => 224
    | .twoThirds => 174
    | .threeQuarters => 158

end Sys2Proof.Machine
end

