-- ==== Sys2Proof/Machine/Synthesis.lean ====
section
/-! DEFINITION. Synthesis: the sine table, the increments and the sample output (R140 to R146). -/

namespace Sys2Proof.Machine

open Sys2Proof

/-- The first quarter of the sine table: entries 0 to 64 of 2,047 sin(2 pi k / 256), rounded to the nearest integer (R140). -/
def sineQuarter : List Int :=
  [0, 50, 100, 151, 201, 251, 300, 350, 399, 449, 497, 546, 594, 642, 690, 737,
   783, 830, 875, 920, 965, 1009, 1052, 1095, 1137, 1179, 1219, 1259, 1299, 1337, 1375, 1411,
   1447, 1483, 1517, 1550, 1582, 1614, 1644, 1674, 1702, 1729, 1756, 1781, 1805, 1828, 1850, 1871,
   1891, 1910, 1927, 1944, 1959, 1973, 1986, 1997, 2008, 2017, 2025, 2032, 2037, 2041, 2045, 2046, 2047]

/-- The first half of the table, by its symmetry about entry 64 (R140). -/
def sineHalf (k : Nat) : Int := if k ≤ 64 then sineQuarter.getD k 0 else sineQuarter.getD (128 - k) 0

/-- Entry `k` of the sine table, 0 to 255 (R140). -/
def sine (k : Nat) : Int := if k < 128 then sineHalf k else -sineHalf (k - 128)

/-- The sample output of a phase at a level: 2,048 + trunc(S[k] (L + 1) / 16), `k` the phase divided by 256 (R141). -/
def sampleOf (phase : BitVec 16) (level : BitVec 4) : BitVec 12 :=
  BitVec.ofInt 12 (2048 + Int.tdiv (sine (phase.toNat / 256) * (level.toNat + 1)) 16)

/-- The increment of a symbol: 1,200 Hz for 0, 1,800 Hz for 1 (R142). -/
def symbolIncrement (b : Bool) : BitVec 16 := if b then 12288 else 8192

/-- The increment of a frequency entry: f x 65,536 / 96,000 to the nearest integer, halves up (R146). -/
def toneIncrement (f : Half) : BitVec 16 := BitVec.ofNat 16 ((f.toNat * 65536 + 48000) / 96000)

/-- A frequency as Write tone frequency stores it (R147). -/
def clampFrequency (f : Half) : Half := if f = 0 then 0 else if f < 3000 then 3000 else if 30000 < f then 30000 else f

/-- Fill: 1 at an even place, 0 at an odd one (R133). -/
def fill (j : Nat) : Bool := j % 2 = 0

/-- Whether the symbol in progress is part of a silent tone: a tone call is on air and its present increment is that of an
entry of 0 (R145, R146). -/
def Transmit.silent (x : Transmit) : Bool := x.tone.isSome && x.increment = 0

end Sys2Proof.Machine
end

