-- ==== Sys2Proof/Machine/Channel.lean ====
section
/-! DEFINITION. The channel scheduler's shared operations (chapter 6): the cycle plan, keying, release and return, the plan
point, and the changes of channel state. -/

namespace Sys2Proof.Machine

open Sys2Proof

/-! ### The cycle plan (R115 to R118) -/

/-- A callout stands before another in the plan order: higher priority first, then lower number (R116). -/
def plannedBefore (x y : SlotIdx × Callout) : Bool :=
  y.2.priority < x.2.priority || (x.2.priority = y.2.priority && x.2.number < y.2.number)

/-- The callouts whose queues are not empty, in plan order (R116). -/
def State.waiting (s : State) : List (SlotIdx × Callout) :=
  sortBy plannedBefore (allSlots.filterMap fun k =>
    match s.slots[k] with
    | some c => if c.queue.isEmpty then none else some (k, c)
    | none => none)

/-- The turn of one callout: the items planned from the head of its queue within a budget, and the queue left. `stood` says
that a Stand-down of the callout is planned already. The first item that is not planned ends the turn (R116). -/
def takeTurn : Nat → Bool → List TxItem → List TxItem × List TxItem
  | _, _, [] => ([], [])
  | budget, stood, i :: rest =>
    if i.kind.cost ≤ budget ∧ ¬(stood = true ∧ i.kind = .standDown) then
      let later := takeTurn (budget - i.kind.cost) (stood || i.kind = .standDown) rest
      (i :: later.1, later.2)
    else ([], i :: rest)

/-- The cost of a list of items. -/
def costOf (l : List TxItem) : Nat := (l.map fun i => i.kind.cost).sum

/-- One callout's turn at a plan point: its slot, the callout with the queue left, and the items planned (R116). -/
structure Turn where
  slot : SlotIdx
  callout : Callout
  planned : List TxItem
deriving DecidableEq, Repr

/-- The turns of the callouts in order, each with the budget that the turns before it left (R116). -/
def planTurns : Nat → List (SlotIdx × Callout) → List Turn
  | _, [] => []
  | budget, (k, c) :: rest =>
    let t := takeTurn budget false c.queue
    ⟨k, { c with queue := t.2 }, t.1⟩ :: planTurns (budget - costOf t.1) rest

/-- The callout after its turn: a Queued callout with an item planned becomes Alerting (R47). -/
def Turn.left (t : Turn) : Callout :=
  if t.planned.isEmpty then t.callout
  else
    match t.callout.lifecycle with
    | .active run => if run.progress = .queued then t.callout.withProgress .alerting else t.callout
    | _ => t.callout

/-- The items laid out back to back from a start symbol (R117). -/
def layOut : Nat → List TxItem → List PlannedItem
  | _, [] => []
  | start, i :: rest => ⟨i, start, i.kind.cost, .pending⟩ :: layOut (start + i.kind.cost) rest

/-- The cycle plan built and its items taken from the queues (R114 items 2 and 3, R116, R117). -/
def State.buildPlan (s : State) : State :=
  let turns := planTurns Config.outboundBudget s.waiting
  let s' := turns.foldl (fun s t => s.setSlot t.slot (some t.left)) s
  { s' with channel := { s'.channel with plan := layOut Config.outboundStart (turns.flatMap (·.planned)) } }

/-- The wake mask of a plan: the groups it holds a Group alert for (R118). -/
def wakeMask (plan : List PlannedItem) : BitVec 12 :=
  plan.foldl (fun w e => match e.item.kind with
    | .groupAlert g _ => w ||| groupBit g
    | _ => w) 0

/-- The other-frames flag of a plan: it holds a Member alert, a Stand-down or a Closing (R118). -/
def otherFrames (plan : List PlannedItem) : Bool :=
  plan.any fun e => match e.item.kind with
    | .memberAlert _ _ => true
    | .standDown => true
    | .closing => true
    | _ => false

/-! ### Release and return (R122, R123, R126, R144) -/

/-- The PTT released: no site is keyed, the symbol stream stops, and the sample output rests (R122, R143, R144). -/
def State.unkey (s : State) : State :=
  { s with
    channel := { s.channel with keyed := none }
    tx := { s.tx with frame := [], assembled := none, tone := none, sample := Config.midScale } }

/-- Whether an item is a step item: a Group alert, a Member alert or a Tone call (R125, R126). -/
def ItemKind.isStep : ItemKind → Bool
  | .groupAlert _ _ => true
  | .memberAlert _ _ => true
  | .toneCall _ => true
  | .standDown => false
  | .closing => false

/-- Whether a returned item goes back to a callout that holds its number (R126). -/
def Callout.takesBack (c : Callout) (i : TxItem) : Bool :=
  c.serial = i.serial &&
    match c.lifecycle with
    | .active _ => i.kind.isStep
    | .standingDown _ => i.kind = .standDown
    | .departed => false

/-- A callout with a returned item at the head of its queue; an Active one becomes Queued (R47, R126). -/
def Callout.putBack (c : Callout) (i : TxItem) : Callout := { c with queue := i :: c.queue }.withProgress .queued

/-- One item returned: put back at the head of its callout's queue, or discarded (R126). -/
def State.returnItem (i : TxItem) (s : State) : State :=
  match s.lookup i.callout with
  | some (k, c) => if c.takesBack i then s.setSlot k (some (c.putBack i)) else s
  | none => s

/-- Every item of the cycle plan still to be sent. -/
def State.unsent (s : State) : List PlannedItem := s.channel.plan.filter PlannedItem.unsent

/-- Every item still to be sent returned, so that they stand in plan order at the heads of their queues (R123, R126). -/
def State.returnUnsent (s : State) : State :=
  let s' := s.unsent.foldr (fun e s => s.returnItem e.item) s
  { s' with channel := { s'.channel with
    plan := s.channel.plan.map fun e => if e.unsent then { e with state := .returned } else e } }

/-! ### The plan point (R114, R118, R120, R121) -/

/-- The other site. -/
def otherSite : Site → Site
  | .a => .b
  | .b => .a

/-- The ready input of a site among sampled levels (R121). -/
def readyOf (pins : SitePins) : Site → Bool
  | .a => pins.rdyA
  | .b => pins.rdyB

/-- The selected site changed, with its notice when the selection differs (R119, R120, R121). -/
def State.select (s : State) (site : Site) (why : SiteChangeCause) : State :=
  if site = s.channel.selected then s
  else
    { s with channel := { s.channel with selected := site } }.raiseNotice .every
      (siteChangedNotice site s.channel.selected why s.channel.cycle)

/-- In Pin mode the SITE input sampled as the selected site; in Request mode it is not sampled (R120). -/
def State.sampleSite (s : State) (pins : SitePins) : State :=
  match s.channel.mode with
  | .request => s
  | .pin => { s with inputs := { s.inputs with site := pins.site } }.select (if pins.site then .b else .a) .pin

/-- A site keyed: its PTT asserts, the phase accumulator is cleared, and the beacon is assembled from the plan as built
(R121, R118, R135, R141). -/
def State.key (s : State) (site : Site) : State :=
  let data := beaconBits s.channel.cycle s.channel.station (wakeMask s.channel.plan) (otherFrames s.channel.plan) site
  { s with
    channel := { s.channel with keyed := some site }
    tx := { s.tx.encoded data .half with
      frame := beaconSync ++ codedSymbols data .half, assembled := none, tone := none, phase := 0 } }

/-- The keying decision from the ready inputs of both sites (R121). -/
def State.keyingDecision (s : State) (pins : SitePins) : State :=
  let sel := s.channel.selected
  let oth := otherSite sel
  if readyOf pins sel then s.key sel
  else if readyOf pins oth then
    match s.channel.mode with
    | .request => (s.select oth .failover).key oth
    | .pin => (s.key oth).raiseNotice .every (siteFaultNotice sel (some oth) .selectedNotReady 0 s.channel.cycle)
  else
    s.returnUnsent.unkey.raiseNotice .every
      (siteFaultNotice sel none .neitherReady s.unsent.length s.channel.cycle)

/-- A plan point in Running (R114): the cycle number, the plan, the SITE sample, the keying decision, and the G section that
opens, `lone` when no cycle precedes it (R112). -/
def State.openCycle (s : State) (lone : Bool) (pins : SitePins) : State :=
  let s1 := { s with channel := { s.channel with cycle := s.channel.cycle + 1, pos := .lead lone 0 } }.buildPlan
  let s2 := { s1 with inputs := { s1.inputs with rdyA := pins.rdyA, rdyB := pins.rdyB } }
  (s2.sampleSite pins).keyingDecision pins

/-! ### Changes of channel state (R107, R110) -/

/-- The channel state changed, with its Channel state notice (R110). -/
def State.changeChannel (s : State) (new : ChannelState) (why : ChannelCause) : State :=
  { s with channel := { s.channel with state := new } }.raiseNotice .every
    (channelStateNotice new s.channel.state why s.channel.cycle)

/-- The channel Stopped: no cycle runs and no site is keyed, and the callout engine acts on its slots (R107, R110, R58). -/
def State.stopChannel (s : State) (why : ChannelCause) : State :=
  ({ s.unkey with channel := { s.unkey.channel with pos := .absent } }.changeChannel .stopped why).stopSlots

/-- The channel's reaction to the loss of the reference clock (R129, R162). -/
def State.loseClock (s : State) : State :=
  if s.channel.state.cycling then
    let s1 := s.returnUnsent.unkey
    let s2 := { s1 with channel := { s1.channel with pos := .absent }, rx := .afterReset }
    match s.channel.state with
    | .running => s2.changeChannel .suspended .clockLost
    | _ => s2.stopChannel .clockLost
  else s

/-! ### Completion (R47, R54, R125) -/

/-- The cycle plan with one entry's state replaced. -/
def State.markItem (s : State) (e : PlannedItem) (st : ItemState) : State :=
  { s with channel := { s.channel with plan := s.channel.plan.map fun x => if x = e then { x with state := st } else x } }

/-- Whether an item of a callout's present serial is still to be sent in the cycle plan (R47). -/
def State.stillSending (s : State) (c : Callout) : Bool :=
  s.channel.plan.any fun e => e.unsent && e.item.callout = c.number && e.item.serial = c.serial

/-- The hold time of a callout's current step; an End step has none (R24). -/
def State.holdOf (s : State) (c : Callout) : Option Nat :=
  match s.plans[c.plan].steps[c.step] with
  | .act _ _ hold _ => some hold
  | .finish => none

/-- The progress of an Active callout after a matched completion (R47). -/
def State.advance (s : State) (c : Callout) : Callout :=
  if s.stillSending c then c
  else if c.queue.isEmpty then
    match s.holdOf c with
    | some hold => c.withProgress (c.heldFor hold)
    | none => c
  else c.withProgress .queued

/-- A completion taken by the callout engine: matched by number and step serial together, a step item to an Active callout and a
Stand-down to one Standing down (R125). -/
def State.matchCompletion (s : State) (i : TxItem) : State :=
  match s.lookup i.callout with
  | none => s
  | some (k, c) =>
    if c.serial = i.serial then
      match c.lifecycle with
      | .active _ => if i.kind.isStep then s.setSlot k (some (s.advance c)) else s
      | .standingDown sent =>
        if i.kind = .standDown then
          if sent + 1 = 2 then s.free k c .stoodDown
          else s.setSlot k (some { c with lifecycle := .standingDown (sent + 1) })
        else s
      | .departed => s
    else s

/-! ### Symbol time (R112, R133, R152) -/

/-- The symbol a keyed symbol time takes outside a tone call (R133): fill in G, the beacon and its fill in B, the frame in
hand in O, whose start symbol is `start`. -/
def Transmit.symbolAt (x : Transmit) (start p : Nat) : Bool := x.frame.getD (p - start) false

/-- The item whose symbols hold position `p`. -/
def itemAt (plan : List PlannedItem) (p : Nat) : Option PlannedItem :=
  plan.find? fun e => e.unsent && e.start ≤ p && p < e.finish

/-- The transmit path at the symbol time of position `p` of an item: at the start symbol the assembled frame becomes the frame
in hand; a frame's symbol, or a tone call's present tone, sets the increment (R134, R142, R145). -/
def Transmit.itemSymbol (x : Transmit) (e : PlannedItem) (p : Nat) : Transmit :=
  if e.item.kind.isFrame then
    let y := if p = e.start then { x with frame := x.assembled.getD [], assembled := none } else x
    { y with increment := symbolIncrement (y.symbolAt e.start p) }
  else
    match x.tone with
    | some t => { x with increment := if p < e.start + Config.toneALength then t.incrementA else t.incrementB }
    | none => x

/-- The keyed symbol of position `p` of the B and O sections (R133). -/
def State.sendSymbol (s : State) (p : Nat) : State :=
  if p < 224 then { s with tx := { s.tx with increment := symbolIncrement (s.tx.symbolAt 0 p) } }
  else if p < Config.outboundStart then { s with tx := { s.tx with increment := symbolIncrement (fill (p - 224)) } }
  else
    match itemAt s.channel.plan p with
    | none => s
    | some e =>
      let s' := if p = e.start then s.markItem e .onAir else s
      { s' with tx := s'.tx.itemSymbol e p }

/-- The received value of a symbol time (R152). -/
def receivedValue (pins : RxPins) : RxValue := if pins.rxe then .erased else if pins.rxd then .one else .zero

/-- The receiver at position `j` of a reply cell: a value at positions 2 to 57, the carrier mark at 30 (R127, R152). -/
def Receiver.sampled (x : Receiver) (j : Nat) (pins : RxPins) : Receiver :=
  let y := if h : 2 ≤ j ∧ j ≤ 57 then { x with buffer := x.buffer.set (j - 2) (receivedValue pins) (by omega) } else x
  if j = 30 then { y with carrier := if pins.rxc then .present else .absent } else y

/-- The levels sampled last at position `j` of a reply cell: the symbol and its erasure flag at positions 2 to 57, the carrier line
at 30; the guard positions sample none (R127). -/
def Inputs.received (x : Inputs) (j : Nat) (pins : RxPins) : Inputs :=
  let y := if 2 ≤ j ∧ j ≤ 57 then { x with rxd := pins.rxd, rxe := pins.rxe } else x
  if j = 30 then { y with rxc := pins.rxc } else y

/-- The receiver lines taken at position `p` of a cycle, within the reply section (R127). -/
def State.sampleReply (s : State) (p : Nat) (pins : RxPins) : State :=
  if Config.replyStart ≤ p then
    let j := (p - Config.replyStart) % Config.cellLength
    { s with rx := s.rx.sampled j pins, inputs := s.inputs.received j pins }
  else s

/-- The position after symbol `j` of a G section: the next symbol of it, or symbol 0 of the cycle (R112). -/
def afterLead (lone : Bool) (j : Nat) : CyclePos :=
  if j + 1 < Config.leadLength then .lead lone (j + 1) else .cycle 0

/-- One symbol time of a running channel: the symbol of the present position is taken and the position advances (R112). -/
def State.advanceSymbol (s : State) (pins : RxPins) : State :=
  match s.channel.pos with
  | .absent => s
  | .lead lone j =>
    let s' := if s.channel.keyed.isSome then { s with tx := { s.tx with increment := symbolIncrement (fill j) } } else s
    { s' with channel := { s'.channel with pos := afterLead lone j } }
  | .cycle p =>
    let s1 := if s.channel.keyed.isSome then s.sendSymbol p else s
    let s2 := s1.sampleReply p pins
    { s2 with channel := { s2.channel with pos := .cycle (p + 1) } }

end Sys2Proof.Machine
end

