-- ==== Sys2Proof/Machine/Responses.lean ====
section
/-! DEFINITION. The response fields of the read requests (11.2, R189). Each is the list of bytes after the result byte. -/

namespace Sys2Proof.Machine

open Sys2Proof

/-- A member record (R18): 18 bytes. Bits 12 to 15 of the call groups are 0, DESIGN CHOICE (log entry 20). -/
def Member.fields (x : Member) : List Byte :=
  let kind : Byte := match x.pager with
    | .absent => 0
    | .digital _ _ => 1
    | .tone _ => 2
  let address : Three := match x.pager with
    | .digital address _ => address.setWidth 24
    | _ => 0
  let group : Byte := match x.pager with
    | .tone g => byteOf g
    | _ => 255
  [flagByte x.inUse, kind] ++ threeBytes address ++ [group, x.quals.code] ++ halfBytes (x.groups.setWidth 16) ++
    [byteOf x.defaultEta, x.availability.code, x.source.code, x.engagement.code] ++
    halfBytes (x.engagement.callout.getD 0) ++ [flagByte x.lastHeard.isSome] ++ halfBytes (x.lastHeard.getD 0)

/-- A step's parameter (R189): the group set, its bits 12 to 15 being 0, DESIGN CHOICE (log entry 20), N, the tone group, or 0. -/
def Action.parameter : Action → Half
  | .groupPage groups _ => groups.setWidth 16
  | .shortfallPage n _ => BitVec.ofNat 16 n
  | .toneCall g => BitVec.ofNat 16 g.val
  | .aidRequest => 0

/-- The code of a step's kind (R188). -/
def Action.code : Action → Byte
  | .groupPage _ _ => 1
  | .shortfallPage _ _ => 2
  | .toneCall _ => 3
  | .aidRequest => 4

/-- A code rate, 255 when absent (R189). -/
def optRate : Option CodeRate → Byte
  | some r => r.code
  | none => 255

/-- A step record of 8 bytes (11.2). -/
def PlanStep.fields : PlanStep → List Byte
  | .finish => [0, 0, 0, 255, 255, 255, 255, 255]
  | .act a cond hold repeats =>
    a.code :: halfBytes a.parameter ++ [cond.code] ++ twoBytes hold ++ [byteOf repeats, optRate a.rate]

/-- A plan (R31): 72 bytes. -/
def Plan.fields (x : Plan) : List Byte :=
  [byteOf x.template.officer, byteOf x.template.driver, byteOf x.template.wearer, byteOf x.template.total] ++
    twoBytes x.template.target ++ [flagByte x.runnable, byteOf x.usage] ++ x.steps.toList.flatMap PlanStep.fields

/-- The tone tables (R149): 96 bytes. -/
def Transmit.tableFields (x : Transmit) : List Byte :=
  x.frequencies.toList.flatMap halfBytes ++ x.pairs.toList.flatMap fun e => [byteOf e.indexA, byteOf e.indexB]

/-- A slot record of List callouts (R60). -/
def slotFields : Option Callout → List Byte
  | none => [0, 0, 0]
  | some c => halfBytes c.number ++ [c.lifecycle.code]

/-- The Active fields of a callout: absent in every other lifecycle (R33). -/
def Lifecycle.run : Lifecycle → Option ActiveRun
  | .active run => some run
  | _ => none

/-- The hold deadline, present in Holding (R33). -/
def Lifecycle.deadline : Lifecycle → Option Nat
  | .active ⟨.holding deadline _, _, _⟩ => some deadline
  | _ => none

/-- Stand-downs sent, present in Standing down (R33). -/
def Lifecycle.sent : Lifecycle → Option Nat
  | .standingDown n => some n
  | _ => none

/-- Progress, 255 when absent (R189). -/
def optProgress : Option ActiveRun → Byte
  | some run => run.progress.code
  | none => 255

/-- A callout's summary (R60): 33 bytes. Bits 12 to 15 of the paged groups are 0, DESIGN CHOICE (log entry 20). -/
def Callout.fields (c : Callout) (k : SlotIdx) : List Byte :=
  let run := c.lifecycle.run
  byteOf k :: halfBytes c.number ++ quadBytes c.reference ++ [c.cls] ++ threeBytes (c.location.setWidth 24) ++
    [c.origins.code, byteOf c.priority.toNat, c.lifecycle.code, optProgress run, byteOf c.plan, byteOf c.step,
      optByte (run.map (·.repeatsLeft)), optRate (run.bind (·.rate)), c.serial] ++
    optTwoBytes c.lifecycle.deadline ++ twoBytes c.elapsed ++ halfBytes (c.pagedGroups.setWidth 16) ++
    [byteOf c.pagedMembers.length] ++ halfBytes c.tonesCalled ++
    [byteOf c.queue.length, byteOf c.entries.length, c.crew.status.code, optByte c.lifecycle.sent]

/-- A responder entry of 11 bytes (R83). -/
def Entry.fields (e : Entry) : List Byte :=
  [byteOf e.member, markedAnswer e.answer e.mark, optByte e.eta, e.source.code] ++ twoBytes e.first ++ twoBytes e.latest ++
    optTwoBytes e.estimate ++ [e.seat.code]

/-- A responder list (R83). -/
def Callout.listFields (c : Callout) : List Byte :=
  halfBytes c.number ++ [c.lifecycle.code, byteOf c.entries.length] ++ c.entries.flatMap Entry.fields

/-- The arrival estimate of a member's entry (R105). -/
def Callout.estimateFor (c : Callout) (m : MemberIdx) : Option Nat :=
  (c.entries.find? fun e => e.member = m).bind (·.estimate)

/-- A seat record of 4 bytes (R105). -/
def Callout.seatFields (c : Callout) (x : SeatRecord) : List Byte :=
  match x.member with
  | some m => [x.role.code, byteOf m] ++ optTwoBytes (c.estimateFor m)
  | none => [x.role.code, 255, 255, 255]

/-- A seat record beyond the template's seats: role 255, and its other fields absent (R189). -/
def noSeatFields : List Byte := [255, 255, 255, 255]

/-- The Standby candidates in rank order (R105): the entries with seat Standby, by estimate and then by member index. DESIGN CHOICE,
safe: an entry without an estimate, which no run reaches, is ranked by 4,095 (log entry 14). -/
def Callout.standby (c : Callout) : List Entry :=
  sortBy (fun x y => x.estimate.getD Config.elapsedMax < y.estimate.getD Config.elapsedMax ||
    (x.estimate.getD Config.elapsedMax = y.estimate.getD Config.elapsedMax && x.member < y.member))
    (c.entries.filter fun e => e.seat = .standby)

/-- The four counts of a record. -/
def RoleCounts.fields (n : RoleCounts) : List Byte := [byteOf n.officer, byteOf n.driver, byteOf n.wearer, byteOf n.crew]

/-- A crew assignment (R105). -/
def Callout.crewFields (c : Callout) : List Byte :=
  halfBytes c.number ++ [c.lifecycle.code, c.crew.status.code] ++ optTwoBytes c.crew.ready ++ c.crew.missing.fields ++
    c.crew.applied.fields ++ twoBytes c.crew.target ++
    (c.crew.roleOrder.map Role.code ++ List.replicate (3 - c.crew.roleOrder.length) 255) ++
    (c.crew.seats.flatMap c.seatFields ++ (List.replicate (8 - c.crew.seats.length) noSeatFields).flatten) ++
    [byteOf c.standby.length] ++ c.standby.flatMap fun e => byteOf e.member :: optTwoBytes e.estimate

/-- The self-test results as reported. DESIGN CHOICE, safe: until the self-test has set them they read as all passed, which no port
can read, since Read status is answered Busy till then (R178; log entry 24). -/
def SelfTest.resultByte : SelfTest → Byte
  | .testing => 0
  | .ended r => resultsCode r

/-- The status of the part as a port reads it (R178): 15 bytes. -/
def State.statusFields (s : State) (p : Port) : List Byte :=
  let c := s.channel
  c.state.code :: halfBytes c.cycle ++
    [siteCode c.selected, keyedCode c.keyed, c.mode.code, s.sup.clock.code, c.quality.code, s.sup.selfTest.resultByte,
      flagByte s.faultMode, classesCode s p, c.station, byteOf c.distanceLimit.toNat, byteOf c.degradeThreshold,
      byteOf c.level.toNat]

end Sys2Proof.Machine
end

