-- ==== Sys2Proof/Machine/CalloutCommands.lean ====
section
/-! DEFINITION. The callout engine's requests and its hold expiry (chapters 3 and 5). -/

namespace Sys2Proof.Machine

open Sys2Proof

/-- A Raise merged into an Active callout (R39). -/
def State.merge (s : State) (p : Port) (k : SlotIdx) (c : Callout) (priority : BitVec 3) : State :=
  let c' := { c with
    origins := c.origins.union (PortSet.only p), priority := if c.priority < priority then priority else c.priority }
  (s.setSlot k (some c')).raiseNotice (s.interested c') (mergedNotice c' p)

/-- A new callout as its allocation fills it, before step 0 starts (R40). The run is that of step 0's start, which follows in
the same event. -/
def State.newCallout (s : State) (p : Port) (reference : Quad) (plan : PlanIdx) (priority : BitVec 3) (cls : Byte)
    (location : BitVec 18) : Callout :=
  { number := s.newNumber, reference := reference, cls := cls, location := location, origins := PortSet.only p,
    priority := priority, lifecycle := .active ⟨.queued, 0, none⟩, plan := plan, step := 0, serial := 0, elapsed := 0,
    pagedGroups := 0, pagedMembers := [], tonesCalled := 0, queue := [], entries := [],
    crew := assemble s.plans[plan].template [] }

/-- A new callout allocated in a Free slot (R40): the record, the plan's count, the Raised notice, the start of step 0. -/
def State.allocate (s : State) (p : Port) (k : SlotIdx) (c : Callout) : State :=
  ((({ s with serialCounter := nextNumber c.number }.takeUpPlan c.plan).setSlot k (some c)).raiseNotice (s.interested c)
    (raisedNotice c p k)).startStep k 0 c

/-- Raise (R38 to R40), its tests in the order of R38. -/
def raiseBody (p : Port) (reference : Quad) (plan priority cls : Byte) (location : Three) (s : State) : Taken :=
  if 7 < priority.toNat ∨ 262143 < location.toNat then refuse s .range
  else
    match s.findSlot fun c => c.reference = reference with
    | some (k, c) =>
      if c.isActive then (s.merge p k c (priority.setWidth 3), Result.merged.code :: halfBytes c.number)
      else refuse s .state
    | none =>
      match readIndex 16 plan with
      | none => refuse s .range
      | some i =>
        if reference = 0 ∨ s.plans[i].runnable = false then refuse s .range
        else
          match s.freeSlot with
          | none => refuse s .full
          | some k =>
            let c := s.newCallout p reference i (priority.setWidth 3) cls (location.setWidth 18)
            done (s.allocate p k c) (halfBytes c.number)

/-- RAISE (R38). -/
def execRaise (p : Port) (reference : Quad) (plan priority cls : Byte) (location : Three) (s : State) :
    Host.Outcome State Fault Refusal :=
  .next (s.takeRequest p .anyUnlessFault (raiseBody p reference plan priority cls location))

/-- Checks 1 and 2 of R50, shared by Escalate, Cancel and Release: the number names a non-Free callout, and the port is of
Station class or one of its origins. -/
def State.permitted (s : State) (p : Port) (number : Half) (body : SlotIdx → Callout → Taken) : Taken :=
  match s.lookup number with
  | none => refuse s .state
  | some (k, c) => if (s.port p).cls = .station || c.origins.has p then body k c else refuse s .cls

/-- Escalate's effect (R51), in its order. -/
def State.escalateTo (s : State) (k : SlotIdx) (c : Callout) (plan : PlanIdx) : State :=
  let s1 := if plan = c.plan then s else (s.leavePlan c.plan).takeUpPlan plan
  let c' := s1.evaluated { c.bumped with queue := [], plan := plan }
  ((s1.settle k c').raiseCrewStatus c.crew c').startStep k 0 c'

/-- Escalate (R50, R51). -/
def escalateBody (p : Port) (number : Half) (plan : Byte) (s : State) : Taken :=
  s.permitted p number fun k c =>
    if c.isActive then
      match readIndex 16 plan with
      | some i => if s.plans[i].runnable then done (s.escalateTo k c i) [] else refuse s .range
      | none => refuse s .range
    else refuse s .state

/-- ESCALATE (R51). -/
def execEscalate (p : Port) (number : Half) (plan : Byte) (s : State) : Host.Outcome State Fault Refusal :=
  .next (s.takeRequest p .any (escalateBody p number plan))

/-- Cancel's effect (R53), in its order. -/
def State.cancelCallout (s : State) (k : SlotIdx) (c : Callout) : State :=
  let s' := (s.disengage (Engagement.isTo c.number)).leavePlan c.plan
  if s.channel.state.willSend then
    s'.setSlot k (some
      ({ c.bumped with queue := [], lifecycle := .standingDown 0 }.enqueue [.standDown, .standDown]))
  else s'.free k c .cancelled

/-- Cancel (R53). -/
def cancelBody (p : Port) (number : Half) (s : State) : Taken :=
  s.permitted p number fun k c => if c.isActive then done (s.cancelCallout k c) [] else refuse s .state

/-- CANCEL (R53). -/
def execCancel (p : Port) (number : Half) (s : State) : Host.Outcome State Fault Refusal :=
  .next (s.takeRequest p .any (cancelBody p number))

/-- Mark departed's effect (R55), in its order. -/
def State.depart (s : State) (k : SlotIdx) (c : Callout) : State :=
  let s' := (s.disengage (fun e => e = .responding c.number)).leavePlan c.plan
  let c' := { c.bumped with queue := [], lifecycle := .departed }.enqueue
    (if s.channel.state.willSend then [.closing] else [])
  (s'.setSlot k (some c')).raiseNotice (s.interested c) (crewNotice .departed c')

/-- Mark departed (R55). -/
def markDepartedBody (number : Half) (s : State) : Taken :=
  match s.lookup number with
  | none => refuse s .state
  | some (k, c) => if c.isActive then done (s.depart k c) [] else refuse s .state

/-- MARK_DEPARTED (R55). -/
def execMarkDeparted (p : Port) (number : Half) (s : State) : Host.Outcome State Fault Refusal :=
  .next (s.takeRequest p .stationOnly (markDepartedBody number))

/-- Release's effect (R56). -/
def State.releaseCallout (s : State) (k : SlotIdx) (c : Callout) : State :=
  (s.disengage (fun e => e = .assigned c.number)).free k c .released

/-- Release (R56). -/
def releaseBody (p : Port) (number : Half) (s : State) : Taken :=
  s.permitted p number fun k c =>
    match c.lifecycle with
    | .departed => done (s.releaseCallout k c) []
    | _ => refuse s .state

/-- RELEASE (R56). -/
def execRelease (p : Port) (number : Half) (s : State) : Host.Outcome State Fault Refusal :=
  .next (s.takeRequest p .any (releaseBody p number))

/-- LIST_CALLOUTS (R60). -/
def execListCallouts (p : Port) (s : State) : Host.Outcome State Fault Refusal :=
  .next (s.takeRequest p .any fun s => done s (s.slots.toList.flatMap slotFields))

/-- A read of a callout named by its number: State when it names none (R60, R83, R105). -/
def State.readNamed (s : State) (number : Half) (fields : SlotIdx → Callout → List Byte) : Taken :=
  match s.lookup number with
  | none => refuse s .state
  | some (k, c) => done s (fields k c)

/-- READ_CALLOUT (R60). -/
def execReadCallout (p : Port) (number : Half) (s : State) : Host.Outcome State Fault Refusal :=
  .next (s.takeRequest p .any fun s => s.readNamed number fun k c => c.fields k)

/-- READ_RESPONDERS (R83). -/
def execReadResponders (p : Port) (number : Half) (s : State) : Host.Outcome State Fault Refusal :=
  .next (s.takeRequest p .any fun s => s.readNamed number fun _ c => c.listFields)

/-- READ_CREW (R105). -/
def execReadCrew (p : Port) (number : Half) (s : State) : Host.Outcome State Fault Refusal :=
  .next (s.takeRequest p .any fun s => s.readNamed number fun _ c => c.crewFields)

/-- Whether a callout's hold has run out at a tick and its expiry has not been taken (R48). -/
def Callout.isDue (c : Callout) : Bool :=
  match c.lifecycle with
  | .active ⟨.holding _ due, _, _⟩ => due
  | _ => false

/-- HOLD_EXPIRY (R48): of the holds that have run out, that of the lowest slot expires. With none run out nothing happens
(log entries 3 and 4). -/
def execHoldExpiry (s : State) : Host.Outcome State Fault Refusal :=
  .next (if s.sup.held then s
    else
      match s.findSlot Callout.isDue with
      | some (k, c) =>
        match c.lifecycle with
        | .active run => s.expireHold k c run
        | _ => s
      | none => s)

end Sys2Proof.Machine
end

