-- ==== Sys2Proof/Machine/ChannelCommands.lean ====
section
/-! DEFINITION. The channel scheduler's requests and events (chapter 6). An event of the cycle is taken when it is due at the
present position; a command for an event that is not due finds nothing to happen (log entries 3 and 5). -/

namespace Sys2Proof.Machine

open Sys2Proof

/-- A degrade threshold as stored: 0 becomes 1, above 96 becomes 96 (R111). -/
def storedThreshold (b : Byte) : Nat := if b = 0 then 1 else saturate 96 b.toNat

/-- An output level as stored: above 15 becomes 15 (R111). -/
def storedLevel (b : Byte) : BitVec 4 := BitVec.ofNat 4 (saturate 15 b.toNat)

/-- Set channel parameters (R111). -/
def setChannelParametersBody (station limit threshold mode level : Byte) (s : State) : Taken :=
  if s.channel.state ≠ .stopped then refuse s .state
  else
    match readMode mode with
    | none => refuse s .range
    | some m =>
      if 7 < limit.toNat then refuse s .range
      else
        done { s with channel := { s.channel with
          station := station, distanceLimit := BitVec.ofNat 3 limit.toNat, degradeThreshold := storedThreshold threshold,
          mode := m, level := storedLevel level } } []

/-- SET_CHANNEL_PARAMETERS (R111). -/
def execSetChannelParameters (p : Port) (station limit threshold mode level : Byte) (s : State) :
    Host.Outcome State Fault Refusal :=
  .next (s.takeRequest p .stationOnly (setChannelParametersBody station limit threshold mode level))

/-- Start channel (R108): Running with a plan point at once, or Suspended in fallback. -/
def startChannelBody (pins : SitePins) (s : State) : Taken :=
  if s.channel.state ≠ .stopped then refuse s .state
  else
    match s.sup.clock with
    | .reference => done ((s.changeChannel .running .start).openCycle true pins) []
    | .internal => done (s.changeChannel .suspended .start) []

/-- START_CHANNEL (R108). -/
def execStartChannel (p : Port) (pins : SitePins) (s : State) : Host.Outcome State Fault Refusal :=
  .next (s.takeRequest p .stationUnlessFault (startChannelBody pins))

/-- Stop channel (R109). -/
def stopChannelBody (s : State) : Taken :=
  match s.channel.state with
  | .running => done (s.changeChannel .stopping .stop) []
  | .suspended => done (s.stopChannel .stop) []
  | _ => refuse s .state

/-- STOP_CHANNEL (R109). -/
def execStopChannel (p : Port) (s : State) : Host.Outcome State Fault Refusal :=
  .next (s.takeRequest p .stationOnly stopChannelBody)

/-- Select site (R119). -/
def selectSiteBody (site : Byte) (s : State) : Taken :=
  match readSite site with
  | none => refuse s .range
  | some x => done (s.select x .request) []

/-- SELECT_SITE (R119). -/
def execSelectSite (p : Port) (site : Byte) (s : State) : Host.Outcome State Fault Refusal :=
  .next (s.takeRequest p .stationOnly (selectSiteBody site))

/-- PLAN_POINT (R114): in Running the next cycle is planned and keyed; in Stopping the channel becomes Stopped. -/
def execPlanPoint (pins : SitePins) (s : State) : Host.Outcome State Fault Refusal :=
  .next (if s.clocked && s.planPointDue then
      match s.channel.state with
      | .running => s.openCycle false pins
      | _ => s.stopChannel .endOfCycle
    else s)

/-- The transmit path once an item has ended: its frame or its tone call is no longer in hand. The increments of a tone call that
has started at the same boundary stay (R145, R150; log entry 16). -/
def Transmit.ended (x : Transmit) (e : PlannedItem) : Transmit :=
  { x with frame := [], tone := x.tone.filter fun t => t.start ≠ e.start }

/-- An item of the cycle plan completed: it becomes Sent, it is no longer in hand, and the callout engine takes the completion
(R125). -/
def State.complete (s : State) (e : PlannedItem) : State :=
  let s' := s.markItem e .sent
  { s' with tx := s'.tx.ended e }.matchCompletion e.item

/-- COMPLETION (R125). -/
def execCompletion (s : State) : Host.Outcome State Fault Refusal :=
  .next (if s.clocked then
      match s.completing with
      | some e => s.complete e
      | none => s
    else s)

/-- KEYED_PERIOD_END (R122): the PTT is released and the output returns to mid-scale. -/
def execKeyedPeriodEnd (s : State) : Host.Outcome State Fault Refusal :=
  .next (if s.clocked && s.periodEnding then s.unkey else s)

/-- A ready loss of the keyed site (R123). -/
def State.loseReady (s : State) (site : Site) : State :=
  s.returnUnsent.unkey.raiseNotice .every (siteFaultNotice site none .readyLost s.unsent.length s.channel.cycle)

/-- The level of a site's ready input as sampled last. -/
def Inputs.unready (x : Inputs) : Site → Inputs
  | .a => { x with rdyA := false }
  | .b => { x with rdyB := false }

/-- The last item of the keyed period has ended and completed, so that the period is over but for its KEYED_PERIOD_END. The end of
the last item is what releases the PTT, so a ready loss taken now finds no keyed period (R132; log entry 23). -/
def State.periodSpent (s : State) : Bool := s.periodEnding && !s.channel.plan.isEmpty && s.unsent.isEmpty

/-- READY_LOSS (R123): the ready input of a site goes inactive. It is a ready loss when that site is keyed and its keyed period
is not over (R132), and has no effect otherwise. -/
def execReadyLoss (site : Site) (s : State) : Host.Outcome State Fault Refusal :=
  .next (if !s.sup.held && s.channel.keyed = some site && !s.periodSpent then
      { s with inputs := s.inputs.unready site }.loseReady site
    else s)

/-- SYMBOL_TIME (R112): the symbol of the present position is taken and the position advances, once every event due before
it has been taken. -/
def execSymbolTime (pins : RxPins) (s : State) : Host.Outcome State Fault Refusal :=
  .next (if s.clocked && s.channel.state.cycling && !s.eventDue then s.advanceSymbol pins else s)

end Sys2Proof.Machine
end

