-- ==== Sys2Proof/Machine/PlanCommands.lean ====
section
/-! DEFINITION. The plan table's requests: Write plan step, Write template, Read plan (chapter 2). -/

namespace Sys2Proof.Machine

open Sys2Proof

/-- A number clamped to a range (Conventions: stored at the nearest bound). -/
def clamp (low high n : Nat) : Nat := if n < low then low else if high < n then high else n

/-- The action of a step as carried, for a kind other than End (R27 checks 3, 5 and 6, R28). -/
def readAction (kind : Byte) (groups : Half) (count toneGroup rate : Byte) : Option Action :=
  if kind = 1 then
    match readRate rate with
    | some r => if readGroups groups = 0 then none else some (.groupPage (readGroups groups) r)
    | none => none
  else if kind = 2 then (readRate rate).map (.shortfallPage (clamp 1 16 count.toNat))
  else if kind = 3 then (readIndex 16 toneGroup).map .toneCall
  else if kind = 4 then some .aidRequest
  else none

/-- A step as carried (R27 checks 3 to 6, R28); none when a field that the kind uses is out of range. -/
def readStep (kind : Byte) (groups : Half) (count toneGroup condition : Byte) (hold : Half) (repeats rate : Byte) :
    Option PlanStep :=
  if kind = 0 then some .finish
  else
    match readAction kind groups count toneGroup rate, readCondition condition with
    | some a, some cond => if repeats.toNat ≤ 3 then some (.act a cond (clamp 10 900 hold.toNat) repeats.toNat) else none
    | _, _ => none

/-- Write plan step (R27, R28). -/
def writePlanStepBody (plan step kind : Byte) (groups : Half) (count toneGroup condition : Byte) (hold : Half)
    (repeats rate : Byte) (s : State) : Taken :=
  match readIndex 16 plan, readIndex 8 step with
  | some i, some j =>
    if s.plans[i].usage ≠ 0 then refuse s .state
    else
      match readStep kind groups count toneGroup condition hold repeats rate with
      | none => refuse s .range
      | some x =>
        if j = 0 ∧ x ≠ .finish ∧ s.plans[i].template.written = false then refuse s .state
        else done (s.setPlan i { s.plans[i] with steps := s.plans[i].steps.set j x }) []
  | _, _ => refuse s .range

/-- WRITE_PLAN_STEP (R27). -/
def execWritePlanStep (p : Port) (plan step kind : Byte) (groups : Half) (count toneGroup condition : Byte) (hold : Half)
    (repeats rate : Byte) (s : State) : Host.Outcome State Fault Refusal :=
  .next (s.takeRequest p .stationOnly (writePlanStepBody plan step kind groups count toneGroup condition hold repeats rate))

/-- A template as Write template stores it (R23): the target clamped, then the crew total, then its raising to the role
sum. -/
def storedTemplate (officer driver wearer total : Nat) (target : Nat) : Template :=
  { officer := officer, driver := driver, wearer := wearer, total := max (clamp 1 8 total) (officer + driver + wearer),
    target := clamp 60 1800 target }

/-- Write template (R23). -/
def writeTemplateBody (plan officer driver wearer total : Byte) (target : Half) (s : State) : Taken :=
  match readIndex 16 plan with
  | none => refuse s .range
  | some i =>
    if s.plans[i].usage ≠ 0 then refuse s .state
    else if officer.toNat ≤ 1 ∧ driver.toNat ≤ 2 ∧ wearer.toNat ≤ 4 then
      done (s.setPlan i { s.plans[i] with
        template := storedTemplate officer.toNat driver.toNat wearer.toNat total.toNat target.toNat }) []
    else refuse s .range

/-- WRITE_TEMPLATE (R23). -/
def execWriteTemplate (p : Port) (plan officer driver wearer total : Byte) (target : Half) (s : State) :
    Host.Outcome State Fault Refusal :=
  .next (s.takeRequest p .stationOnly (writeTemplateBody plan officer driver wearer total target))

/-- Read plan (R31). -/
def readPlanBody (plan : Byte) (s : State) : Taken :=
  match readIndex 16 plan with
  | none => refuse s .range
  | some i => done s s.plans[i].fields

/-- READ_PLAN (R31). -/
def execReadPlan (p : Port) (plan : Byte) (s : State) : Host.Outcome State Fault Refusal :=
  .next (s.takeRequest p .any (readPlanBody plan))

end Sys2Proof.Machine
end

