-- ==== Sys2Proof/Machine/Receive.lean ====
section
/-! DEFINITION. The reply receiver's decision (chapter 8): the reply code, the decoding rule and the acceptance tests. -/

namespace Sys2Proof.Machine

open Sys2Proof

/-! ### The reply code (R155) -/

/-- The codeword of a 24-bit word: its bits and four zero tail bits, encoded with all symbols kept (R155). -/
def codeword (w : BitVec 24) : List Bool := punctured .half 0 (codedPairs 0 (bitsOf w ++ zeros 4))

/-- Whether a received value is judged and differs from a symbol: its share of the distance (R156). -/
def mismatch (v : RxValue) (symbol : Bool) : Nat :=
  match v with
  | .zero => if symbol then 1 else 0
  | .one => if symbol then 0 else 1
  | _ => 0

/-- The distance between received values and a codeword (R156). -/
def distance (received : List RxValue) (code : List Bool) : Nat := (List.zipWith mismatch received code).sum

/-! ### Decoding (R156)

The decoded word is the word of least distance and, among those, of least numerical value. It is found from the last bit of
the word backwards: for each value of the encoder register, the least distance of the symbols still to come and the least
value of the bits still to come that reaches it. -/

/-- The received values of one input bit: those of its C0 and its C1. -/
abbrev RxPair := RxValue × RxValue

/-- The received values, two to an input bit (R155). -/
def pairsOf : List RxValue → List RxPair
  | x :: y :: rest => (x, y) :: pairsOf rest
  | _ => []

/-- The mismatches of one input bit, sent from a register value. -/
def pairDistance (v : RxPair) (reg : BitVec 4) (b : Bool) : Nat :=
  mismatch v.1 (codedPair reg b).1 + mismatch v.2 (codedPair reg b).2

/-- The mismatches of the tail: zero bits, sent from a register value (R155). -/
def tailDistance : List RxPair → BitVec 4 → Nat
  | [], _ => 0
  | v :: rest, reg => pairDistance v reg false + tailDistance rest (shiftIn reg false)

/-- The better of two completions, the first of which has the smaller value: the second only when its distance is smaller. -/
def betterOf (x y : Nat × Nat) : Nat × Nat := if y.1 < x.1 then y else x

/-- The completion that starts with a bit, from a table of the completions after it. -/
def extend (table : List (Nat × Nat)) (v : RxPair) (reg : BitVec 4) (b : Bool) (weight : Nat) : Nat × Nat :=
  let rest := table.getD (shiftIn reg b).toNat (0, 0)
  (pairDistance v reg b + rest.1, (if b then weight else 0) + rest.2)

/-- For each register value, the least distance and the least value of the word bits still to come whose symbols were
received as the list, followed by the tail. -/
def completions (tail : List RxPair) : List RxPair → List (Nat × Nat)
  | [] => (List.range 16).map fun r => (tailDistance tail (BitVec.ofNat 4 r), 0)
  | v :: rest =>
    let table := completions tail rest
    (List.range 16).map fun r =>
      betterOf (extend table v (BitVec.ofNat 4 r) false (2 ^ rest.length))
        (extend table v (BitVec.ofNat 4 r) true (2 ^ rest.length))

/-- The distance of a cell and its decoded word (R156). -/
def decodeBurst (received : List RxValue) : Nat × BitVec 24 :=
  let pairs := pairsOf received
  let best := (completions (pairs.drop 24) (pairs.take 24)).getD 0 (0, 0)
  (best.1, BitVec.ofNat 24 best.2)

/-! ### The fields of a word (R187) -/

/-- Answer: bits 0 to 1 on air. -/
def answerField (w : BitVec 24) : BitVec 2 := w.extractLsb' 22 2
/-- ETA: bits 2 to 6 on air. -/
def etaField (w : BitVec 24) : BitVec 5 := w.extractLsb' 17 5
/-- Tag: bits 7 to 12 on air. -/
def tagField (w : BitVec 24) : BitVec 6 := w.extractLsb' 11 6
/-- Address check: bits 13 to 19 on air. -/
def checkField (w : BitVec 24) : BitVec 7 := w.extractLsb' 4 7
/-- CRC-4: bits 20 to 23 on air. -/
def crcField (w : BitVec 24) : BitVec 4 := w.extractLsb' 0 4

/-- Whether the CRC-4 of a word checks (R158). -/
def crcChecks (w : BitVec 24) : Bool := crc4 ((bitsOf w).take 20) = crcField w

/-- An ETA field: 0 to 30 minutes, 31 absent (R160). -/
def burstEta (e : BitVec 5) : Option Nat := if e = 31 then none else some e.toNat

/-! ### The decision (R153, R154, R157, R159) -/

/-- The number of erased values in the buffer (R154). -/
def Receiver.erasures (x : Receiver) : Nat := x.buffer.toList.countP fun v => v = .erased

/-- How a cell ends (chapter 8). -/
inductive CellOutcome where
  | empty
  | rejected
  | accepted (word : BitVec 24)
deriving DecidableEq, Repr

/-- Whether a record passes the tests of R159 for a word: in use, Digital, and the address check equal to the low 7 bits of
the pager address. -/
def Member.answers (x : Member) (w : BitVec 24) : Bool :=
  match x.address with
  | some address => address.setWidth 7 = checkField w
  | none => false

/-- The decision of a cell, stage by stage (R153). -/
def State.decideCell (s : State) (k : MemberIdx) : CellOutcome :=
  if s.rx.carrier ≠ .present then .empty
  else if Config.erasureLimit < s.rx.erasures then .rejected
  else
    let best := decodeBurst s.rx.buffer.toList
    if s.channel.distanceLimit.toNat < best.1 then .rejected
    else if !crcChecks best.2 then .rejected
    else if !(s.member k).answers best.2 then .rejected
    else .accepted best.2

/-- A pager status reply taken by the roster (R11): stored, with source Pager and a notice, when it differs. -/
def State.statusReply (s : State) (k : MemberIdx) (v : Availability) : State :=
  if (s.member k).availability = v then s
  else
    let x := { s.member k with availability := v, source := .pager }
    (s.setMember k x).raiseNotice s.stations (availabilityNotice k x)

/-- A callout reply matched by its tag to an Active callout and handed to the callout engine, or dropped (R161). -/
def State.handOn (s : State) (k : MemberIdx) (a : Answer) (eta : Option Nat) (tag : BitVec 6) : State :=
  match s.findSlot fun c => c.isActive && tagOf c.number = tag with
  | some (_, c) => { s with handOffs := s.handOffs ++ [⟨k, a, eta, c.number⟩] }
  | none => s

/-- An accepted burst: last heard is set, and the reply goes on by its answer (R14, R160). -/
def State.accept (s : State) (k : MemberIdx) (w : BitVec 24) : State :=
  let s' := s.setMember k { s.member k with lastHeard := some s.channel.cycle }
  match (answerField w).toNat with
  | 0 => s'.handOn k .attending (burstEta (etaField w)) (tagField w)
  | 1 => s'.handOn k .declined none (tagField w)
  | 2 => s'.statusReply k .available
  | _ => s'.statusReply k .unavailable

/-- Whether a cell's burst brings a status reply that has to wait: a callout reply of an earlier cell is still on its way, and
hand-offs reach the roster and the callout engine in cell order (R161; log entry 9). -/
def State.awaitsHandOff (s : State) (k : MemberIdx) : Bool :=
  !s.handOffs.isEmpty &&
    match s.decideCell k with
    | .accepted w => 2 ≤ (answerField w).toNat
    | _ => false

/-- The cell decided: a rejected cell is counted, an accepted one handed on (R153, R162). -/
def State.settleCell (s : State) (k : MemberIdx) : State :=
  match s.decideCell k with
  | .empty => s
  | .rejected => { s with rx := { s.rx with rejected := s.rx.rejected + 1 } }
  | .accepted w => s.accept k w

/-- The quality that a count gives (R128). -/
def Channel.qualityOf (c : Channel) (count : Nat) : Quality := if c.degradeThreshold ≤ count then .poor else .good

/-- The end of the reply section: the count handed to the scheduler and cleared (R128, R162). -/
def State.closeSection (s : State) : State :=
  let q := s.channel.qualityOf s.rx.rejected
  let s' := { s with rx := { s.rx with rejected := 0 }, channel := { s.channel with quality := q } }
  if q = s.channel.quality then s'
  else s'.raiseNotice .every (qualityNotice q s.rx.rejected s.channel.cycle)

/-- The cell buffer and the carrier mark cleared (R153). -/
def Receiver.clearedCell (x : Receiver) : Receiver :=
  { x with buffer := Vector.replicate 56 .unfilled, carrier := .unsampled }

/-- The end of a cell (R153): the decision, the clearing of the cell and, after cell 95, the end of the section. -/
def State.endCell (s : State) (k : MemberIdx) : State :=
  let s' := s.settleCell k
  let s'' := { s' with rx := s'.rx.clearedCell }
  if k = 95 then s''.closeSection else s''

end Sys2Proof.Machine
end

