-- ==== Sys2Proof/Machine/PortCommands.lean ====
section
/-! DEFINITION. The port block's own requests, the opening and closing of frames (chapter 9), and the cell end (R153). -/

namespace Sys2Proof.Machine

open Sys2Proof

/-- UNKNOWN_REQUEST (R167): a code that names no request is answered Unknown at its code byte, in every state of the part. A
code that names one is not this event, and nothing happens (log entry 3). -/
def execUnknownRequest (p : Port) (code : Byte) (s : State) : Host.Outcome State Fault Refusal :=
  .next (if s.listening p && !namesRequest code then s.respond p [Result.unknown.code] else s)

/-- FRAME_OPEN (R164): the select line goes low. A line that is low already does not go low, so a line held low over a reset
opens no frame (R166). -/
def execFrameOpen (p : Port) (s : State) : Host.Outcome State Fault Refusal :=
  .next (if s.sup.held || (s.port p).selLow then s
    else s.setPort p { s.port p with frame := .receiving, selLow := true })

/-- FRAME_CLOSE (R166): the select line goes high; request bytes short of a request, and the rest of a response, are
discarded. -/
def execFrameClose (p : Port) (s : State) : Host.Outcome State Fault Refusal :=
  .next (if s.sup.held then s else s.setPort p { s.port p with frame := .closed, selLow := false })

/-- Read notice (R175): the oldest notice, or the record of kind None, with the overflow mark as it stood; the mark is
cleared. -/
def readNoticeBody (p : Port) (s : State) : Taken :=
  let x := s.port p
  match x.queue with
  | [] => done (s.setPort p { x with overflow := false }) (flagByte x.overflow :: Notice.empty.bytes)
  | n :: rest => done (s.setPort p { x with queue := rest, overflow := false }) (flagByte x.overflow :: n.bytes)

/-- READ_NOTICE (R175). -/
def execReadNotice (p : Port) (s : State) : Host.Outcome State Fault Refusal :=
  .next (s.takeRequest p .any (readNoticeBody p))

/-- READ_STATUS (R178). -/
def execReadStatus (p : Port) (s : State) : Host.Outcome State Fault Refusal :=
  .next (s.takeRequest p .any fun s => done s (s.statusFields p))

/-- CELL_END (R153): the cell that has ended is decided, once no earlier callout reply stands before a status reply of it
(R161). -/
def execCellEnd (s : State) : Host.Outcome State Fault Refusal :=
  .next (if s.clocked then
      match s.endingCell with
      | some k => if s.awaitsHandOff k then s else s.endCell k
      | none => s
    else s)

end Sys2Proof.Machine
end

