-- ==== Sys2Proof/Machine/Replies.lean ====
section
/-! DEFINITION. The handling of one callout reply, from any of its three sources (chapter 4, R70). -/

namespace Sys2Proof.Machine

open Sys2Proof

/-- A reply for a member: the answer received (Attending, Declined or Arrived), the ETA it carries and its source (R67 to
R69). -/
structure Reply where
  member : MemberIdx
  answer : Answer
  eta : Option Nat
  source : ReplySource
deriving DecidableEq, Repr

/-- The entry of a member in a list (R64). -/
def entryOf (l : List Entry) (m : MemberIdx) : Option Entry := l.find? fun e => e.member = m

/-- Whether a member's entry in a list is Arrived (R70 stage 3). -/
def hasArrived (l : List Entry) (m : MemberIdx) : Bool := l.any fun e => e.member = m && e.answer = .arrived

/-- The paged test of a radio reply (R71). -/
def State.paged (s : State) (c : Callout) (m : MemberIdx) : Bool :=
  (s.member m).groups &&& c.pagedGroups ≠ 0 || m ∈ c.pagedMembers

/-! ### Answer to record (stage 4) -/

/-- What the engagement rule makes of a reply (R72, R73): recorded as received; recorded after a withdrawal from the callout
in a slot; or recorded as Declined with the engaged-elsewhere mark. -/
inductive Weighing where
  | received
  | withdrawing (k : SlotIdx) (d : Callout)
  | elsewhere
deriving DecidableEq, Repr

/-- The engagement rule for a reply to callout `c` (R72, R73). -/
def State.weigh (s : State) (c : Callout) (r : Reply) : Weighing :=
  if r.answer = .declined then .received
  else
    match (s.member r.member).engagement.callout with
    | none => .received
    | some d =>
      if d = c.number then .received
      else
        match s.lookup d with
        | none => .received
        | some (k, x) => if x.isActive && x.priority < c.priority then .withdrawing k x else .elsewhere

/-- The answer that will be recorded (R70 stage 4). -/
def Weighing.answer (w : Weighing) (r : Reply) : Answer :=
  match w with
  | .elsewhere => .declined
  | _ => r.answer

/-- Whether the answer is recorded with the engaged-elsewhere mark (R73). -/
def Weighing.mark : Weighing → Bool
  | .elsewhere => true
  | _ => false

/-! ### Room (stage 5) -/

/-- The outcome of the room test (R78). `noRoom true` raises a List full notice. -/
inductive Room where
  | update | append | evict | noRoom (notice : Bool)
deriving DecidableEq, Repr

/-- The room for an answer of a member in a list (R78). -/
def roomFor (l : List Entry) (m : MemberIdx) (a : Answer) : Room :=
  if l.any fun e => e.member = m then .update
  else if l.length < Config.listCapacity then .append
  else if a = .declined then .noRoom false
  else if l.any fun e => e.answer = .declined then .evict
  else .noRoom true

/-! ### Effects (stage 6) -/

/-- The arrival estimate of an entry set at `t` (R65, R89, R90). -/
def estimateOf (a : Answer) (t : Nat) (eta : Option Nat) (defaultEta : Nat) : Option Nat :=
  match a with
  | .attending => some (saturate Config.elapsedMax (t + 60 * eta.getD defaultEta))
  | .arrived => some t
  | _ => none

/-- The ETA that an entry holds: that of an Attending answer (R75). -/
def etaOf (a : Answer) (eta : Option Nat) : Option Nat := if a = .attending then eta else none

/-- The entry of a reply taken at elapsed `t`, with `first` its first reply time and `seat` its seat until the evaluation
(R75, R77). -/
def newEntry (r : Reply) (a : Answer) (mark : Bool) (defaultEta t first : Nat) (seat : Seat) : Entry :=
  { member := r.member, answer := a, eta := etaOf a r.eta, source := r.source, first := first, latest := t,
    estimate := estimateOf a t (etaOf a r.eta) defaultEta, mark := mark, seat := seat }

/-- A list with the entry of the reply's member updated in place (R75). -/
def updateEntry (l : List Entry) (r : Reply) (a : Answer) (mark : Bool) (defaultEta t : Nat) : List Entry :=
  l.map fun e => if e.member = r.member then newEntry r a mark defaultEta t e.first e.seat else e

/-- A list with the reply appended as a new entry (R77). -/
def appendEntry (l : List Entry) (r : Reply) (a : Answer) (mark : Bool) (defaultEta t : Nat) : List Entry :=
  l ++ [newEntry r a mark defaultEta t t .unseated]

/-- A list with its oldest Declined entry, the one nearest the head, removed (R78). -/
def evictOldest (l : List Entry) : List Entry := l.eraseP fun e => e.answer = .declined

/-- A list with a member's entry withdrawn (R72 item 1). -/
def withdrawEntry (l : List Entry) (m : MemberIdx) : List Entry :=
  l.map fun e => if e.member = m then { e with answer := .withdrawn, eta := none, estimate := none } else e

/-- The Reply notice for a member's entry in the callout in a slot, naming a source (R80). -/
def State.raiseReply (s : State) (c : Callout) (m : MemberIdx) (source : ReplySource) : State :=
  match entryOf c.entries m with
  | some e => s.raiseNotice s.stations (replyNotice c e source)
  | none => s

/-- The withdrawal of a member from callout `d` in slot `k`, with its evaluation and notices (R72). -/
def State.withdraw (s : State) (k : SlotIdx) (d : Callout) (r : Reply) : State :=
  let d' := s.evaluated { d with entries := withdrawEntry d.entries r.member }
  let s' := (s.engage r.member .free).settle k d'
  (s'.raiseReply d' r.member r.source).raiseCrewStatus d.crew d'

/-- The change to the member's engagement (R74, R79): Responding for an Attending or Arrived answer; Free for a Declined
answer, mark clear, of a member engaged to this callout; unchanged otherwise. -/
def State.engageReply (s : State) (number : Half) (m : MemberIdx) (a : Answer) (mark : Bool) : State :=
  match a with
  | .declined => if !mark && (s.member m).engagement.isTo number then s.engage m .free else s
  | .withdrawn => s
  | _ => s.engage m (.responding number)

/-- A callout's list with a reply recorded under a room outcome (R75, R77, R78). -/
def recordIn (c : Callout) (r : Reply) (a : Answer) (mark : Bool) (defaultEta : Nat) : Room → List Entry
  | .update => updateEntry c.entries r a mark defaultEta c.elapsed
  | .append => appendEntry c.entries r a mark defaultEta c.elapsed
  | .evict => appendEntry (evictOldest c.entries) r a mark defaultEta c.elapsed
  | .noRoom _ => c.entries

/-- The recording of a reply in the callout of slot `k`, with the evaluation and the notices (R70 stages 6 and 7): the record,
the engagement, the crew builder, the Reply notice, the Crew status notice. -/
def State.record (s : State) (k : SlotIdx) (c : Callout) (r : Reply) (a : Answer) (mark : Bool) (room : Room) : State :=
  let listed := { c with entries := recordIn c r a mark (s.member r.member).defaultEta room }
  let c' := s.evaluated listed
  let s' := (s.engageReply c.number r.member a mark).settle k c'
  (s'.raiseReply c' r.member r.source).raiseCrewStatus c.crew c'

/-- Stages 4 to 7 of R70 for a reply to the callout in slot `k`: the state, and Done or Full. -/
def State.handleReply (s : State) (k : SlotIdx) (c : Callout) (r : Reply) : State × Result :=
  let w := s.weigh c r
  let a := w.answer r
  match roomFor c.entries r.member a with
  | .noRoom true => (s.raiseNotice s.stations (listFullNotice c r.member a r.source), .full)
  | .noRoom false => (s, .full)
  | room =>
    match w with
    | .withdrawing kd d => ((s.withdraw kd d r).record k c r a w.mark room, .done)
    | _ => (s.record k c r a w.mark room, .done)

end Sys2Proof.Machine
end

