-- ==== Sys2Proof/Machine/ReplyCommands.lean ====
section
/-! DEFINITION. The three ways a callout reply arrives: Record reply, Mark arrived and the radio hand-off (4.3). -/

namespace Sys2Proof.Machine

open Sys2Proof

/-- A reply handled for a port request: the state it left and its result (R70). -/
def answered (x : State × Result) : Taken := (x.1, [x.2.code])

/-- Record reply (R68), its checks in order. -/
def recordReplyBody (p : Port) (member : Byte) (number : Half) (answer eta : Byte) (s : State) : Taken :=
  match readIndex 96 member, readAnswer answer with
  | some m, some a =>
    if (s.member m).inUse then
      match s.lookup number with
      | none => refuse s .state
      | some (k, c) =>
        if !c.isActive then refuse s .state
        else if a = .attending ∧ hasArrived c.entries m = true then refuse s .state
        else answered (s.handleReply k c ⟨m, a, readEta eta, .port p⟩)
    else refuse s .state
  | _, _ => refuse s .range

/-- RECORD_REPLY (R68). -/
def execRecordReply (p : Port) (member : Byte) (number : Half) (answer eta : Byte) (s : State) :
    Host.Outcome State Fault Refusal :=
  .next (s.takeRequest p .stationOnly (recordReplyBody p member number answer eta))

/-- Mark arrived (R69), its checks in order; a repeated marking is answered Done and changes nothing. -/
def markArrivedBody (p : Port) (member : Byte) (number : Half) (s : State) : Taken :=
  match readIndex 96 member with
  | none => refuse s .range
  | some m =>
    if (s.member m).inUse then
      match s.lookup number with
      | none => refuse s .state
      | some (k, c) =>
        if !c.isActive then refuse s .state
        else if hasArrived c.entries m then done s []
        else answered (s.handleReply k c ⟨m, .arrived, none, .port p⟩)
    else refuse s .state

/-- MARK_ARRIVED (R69). -/
def execMarkArrived (p : Port) (member : Byte) (number : Half) (s : State) : Host.Outcome State Fault Refusal :=
  .next (s.takeRequest p .stationOnly (markArrivedBody p member number))

/-- A radio reply taken by the callout engine (R67, R70): dropped when the number names no Active callout, when the paged test
fails (R71) or when the member's entry is Arrived (R76); otherwise handled. -/
def State.takeHandOff (s : State) (h : HandOff) : State :=
  match s.lookup h.callout with
  | none => s
  | some (k, c) =>
    if c.isActive && s.paged c h.member && !hasArrived c.entries h.member then
      (s.handleReply k c ⟨h.member, h.answer, h.eta, .radio⟩).1
    else s

/-- CALLOUT_REPLY (R70): the oldest hand-off of the reply receiver is taken (R161; log entry 9). With none waiting nothing
happens (log entry 3). -/
def execCalloutReply (s : State) : Host.Outcome State Fault Refusal :=
  .next (if s.sup.held then s
    else
      match s.handOffs with
      | [] => s
      | h :: rest => { s with handOffs := rest }.takeHandOff h)

end Sys2Proof.Machine
end

