-- ==== Sys2Proof/Machine/RosterCommands.lean ====
section
/-! DEFINITION. The roster requests: Set availability, Write member, Read member (chapter 1). -/

namespace Sys2Proof.Machine

open Sys2Proof

/-- Set availability (R10). -/
def setAvailabilityBody (p : Port) (member availability : Byte) (s : State) : Taken :=
  match readIndex 96 member, readAvailability availability with
  | some m, some v =>
    if (s.member m).inUse then
      let x := { s.member m with availability := v, source := .port p }
      done ((s.setMember m x).raiseNotice s.stations (availabilityNotice m x)) []
    else refuse s .state
  | _, _ => refuse s .range

/-- SET_AVAILABILITY (R10). -/
def execSetAvailability (p : Port) (member availability : Byte) (s : State) : Host.Outcome State Fault Refusal :=
  .next (s.takeRequest p .any (setAvailabilityBody p member availability))

/-- The pager fields that a Write member carries, by its kind (R15, R16 check 3): none for a value out of range. -/
def readPager (kind : Byte) (address : Three) (toneGroup : Byte) (groups : Half) : Option Pager :=
  if kind = 0 then some .absent
  else if kind = 1 then
    if 1 ≤ address.toNat ∧ address.toNat ≤ 1048575 then some (.digital (address.setWidth 20) (readGroups groups)) else none
  else if kind = 2 then (readIndex 16 toneGroup).map .tone
  else none

/-- Whether another in-use Digital record holds a pager's address (R16 check 4). -/
def State.addressTaken (s : State) (m : MemberIdx) (pager : Pager) : Bool :=
  match pager with
  | .digital address _ => allMembers.any fun k => k ≠ m && (s.member k).address = some address
  | _ => false

/-- A member record written (R12, R15, R17): stored, with an Availability notice when the availability differs. -/
def State.storeMember (s : State) (m : MemberIdx) (x : Member) : State :=
  if x.availability = (s.member m).availability then s.setMember m x
  else (s.setMember m x).raiseNotice s.stations (availabilityNotice m x)

/-- Write member (R15 to R17), its checks in the order of R16. -/
def writeMemberBody (p : Port) (member inUse kind : Byte) (address : Three) (toneGroup quals : Byte) (groups : Half)
    (eta availability : Byte) (s : State) : Taken :=
  match readIndex 96 member with
  | none => refuse s .range
  | some m =>
    if (s.member m).engagement ≠ .free then refuse s .state
    else if inUse = 0 then done (s.storeMember m .cleared) []
    else if inUse ≠ 1 then refuse s .range
    else
      match readAvailability availability, readPager kind address toneGroup groups with
      | some v, some pager =>
        if s.addressTaken m pager then refuse s .state
        else
          done (s.storeMember m
            { s.member m with
              inUse := true, pager := pager, quals := readQuals quals, defaultEta := saturate 30 eta.toNat,
              availability := v, source := .port p }) []
      | _, _ => refuse s .range

/-- WRITE_MEMBER (R16). -/
def execWriteMember (p : Port) (member inUse kind : Byte) (address : Three) (toneGroup quals : Byte) (groups : Half)
    (eta availability : Byte) (s : State) : Host.Outcome State Fault Refusal :=
  .next (s.takeRequest p .stationOnly (writeMemberBody p member inUse kind address toneGroup quals groups eta availability))

/-- Read member (R18). -/
def readMemberBody (member : Byte) (s : State) : Taken :=
  match readIndex 96 member with
  | none => refuse s .range
  | some m => done s (s.member m).fields

/-- READ_MEMBER (R18). -/
def execReadMember (p : Port) (member : Byte) (s : State) : Host.Outcome State Fault Refusal :=
  .next (s.takeRequest p .any (readMemberBody member))

end Sys2Proof.Machine
end

