-- ==== Sys2Proof/Machine/SupervisionCommands.lean ====
section
/-! DEFINITION. Reset, the end of the self-test, the one-second tick, and the loss and restore of the reference clock
(chapter 10). -/

namespace Sys2Proof.Machine

open Sys2Proof

/-- A port whose frame is discarded (R166, R180). -/
def PortState.frameDiscarded (x : PortState) : PortState := { x with frame := .closed }

/-- RESET (R180): the part is held in reset. Every PTT is released, open frames are discarded, the sample output is 2,048 and
no word is sent. The tables take their reset contents when the reset ends. -/
def execReset (s : State) : Host.Outcome State Fault Refusal :=
  let s' := s.unkey
  .next { s' with
    sup := { s'.sup with held := true }
    tx := { s'.tx with dacWord := none }
    ports := ⟨s'.ports.a.frameDiscarded, s'.ports.b.frameDiscarded, s'.ports.c.frameDiscarded⟩ }

/-- RESET_END (R180): the classes are sampled, every table takes its reset contents and the self-test begins. A part that is
not held in reset has no reset to end (log entry 3). -/
def execResetEnd (pins : ResetPins) (s : State) : Host.Outcome State Fault Refusal :=
  .next (if s.sup.held then State.afterReset pins s.inputs s.pending s.edgesRead else s)

/-- The four memory groups at their reset contents (R181): the roster; the callouts and the serial counter; the plans and the
tone tables; the notice queues, without their overflow marks. -/
def State.groupsCleared (s : State) : State :=
  { s with
    roster := Vector.replicate 96 .cleared
    slots := Vector.replicate 8 none
    serialCounter := 1
    plans := Vector.replicate 16 .cleared
    tx := { s.tx with frequencies := Vector.replicate 32 0, pairs := Vector.replicate 16 ⟨0, 0⟩ }
    ports := ⟨{ s.ports.a with queue := [] }, { s.ports.b with queue := [] }, { s.ports.c with queue := [] }⟩ }

/-- SELF_TEST_END (R181): the four results are set in one step. Outside the self-test nothing happens (log entry 3). -/
def execSelfTestEnd (results : GroupResults) (s : State) : Host.Outcome State Fault Refusal :=
  .next (if !s.sup.held && s.testing then
      { s.groupsCleared with sup := { s.sup with selfTest := .ended results } }
    else s)

/-- A callout at a tick (R48): elapsed advances, stopping at 4,095, and a hold whose deadline it has reached is due. -/
def Callout.ticked (c : Callout) : Callout :=
  let now := saturate Config.elapsedMax (c.elapsed + 1)
  let c' := { c with elapsed := now }
  match c.lifecycle with
  | .active ⟨.holding deadline due, repeats, rate⟩ =>
    c'.withRun ⟨.holding deadline (due || deadline ≤ now), repeats, rate⟩
  | _ => c'

/-- ONE_SECOND_TICK (R183): the phase has completed a second, every non-Free callout's elapsed time advances (R48), the fallback
tick count advances while the clock source is Internal (R184), and the phase starts again at 0. Before that no tick is due
(log entry 3). -/
def execOneSecondTick (s : State) : Host.Outcome State Fault Refusal :=
  .next (if s.sup.held || !s.tickDue then s
    else
      { s with
        slots := s.slots.map (Option.map Callout.ticked)
        sup := { s.sup with
          tickPhase := 0
          fallbackTicks :=
            if s.sup.clock = .internal then saturate Config.fallbackTicksMax (s.sup.fallbackTicks + 1)
            else s.sup.fallbackTicks } })

/-- The reference taken as lost (R184): the source becomes Internal, the measurement and the tick count start from 0, the Clock
fallback notice is raised and the channel reacts. -/
def State.loseReference (s : State) : State :=
  let s1 := { s with
    sup := { s.sup with clock := .internal, restore := .measuring 0, fallbackTicks := 0 }
    tx := { s.tx with dacWord := none } }
  (s1.raiseNotice .every (clockFallbackNotice s.channel.state s.channel.cycle)).loseClock

/-- REFERENCE_LOST (R184): the loss, with the clock source Reference. With the source Internal no edge can be lost again. -/
def execReferenceLost (s : State) : Host.Outcome State Fault Refusal :=
  .next (if s.clocked then s.loseReference else s)

/-- RESTORE_GAP (R185): 2 ms without an edge. During the restore qualification they set the measurement back to 0; taken after the
restore, they are a loss (R186). -/
def execRestoreGap (s : State) : Host.Outcome State Fault Refusal :=
  .next (if s.sup.held then s
    else if s.sup.clock = .reference then s.loseReference
    else
      match s.sup.restore with
      | .idle => s
      | .measuring _ => { s with sup := { s.sup with restore := .measuring 0 } })

/-- The channel's reaction to the restore of the reference clock (R130): a Suspended channel becomes Running with a plan point
at once. -/
def State.resumeChannel (s : State) (pins : SitePins) : State :=
  match s.channel.state with
  | .suspended => (s.changeChannel .running .clockRestored).openCycle true pins
  | _ => s

/-- RESTORED (R185): with the clock source Internal and the measurement at 1 s, the source becomes Reference, the Clock restored
notice is raised and the channel reacts. A measurement short of 1 s restores nothing (R186). -/
def execRestored (pins : SitePins) (s : State) : Host.Outcome State Fault Refusal :=
  .next (if !s.sup.held && s.sup.clock = .internal && s.restoreDue then
      let s1 := { s with
        sup := { s.sup with clock := .reference, restore := .idle }
        tx := { s.tx with restoreWord := true } }
      (s1.raiseNotice .every (clockRestoredNotice s.sup.fallbackTicks s.channel.cycle)).resumeChannel pins
    else s)

/-- The measurement after some more reference periods: one for each rising edge, up to the 1 s at which the restore is due
(R185). -/
def RestoreQual.advanced (x : RestoreQual) (edges : Nat) : RestoreQual :=
  match x with
  | .idle => .idle
  | .measuring n => .measuring (saturate Config.periodsPerSecond (n + edges))

/-- One period of the clock that counts time, with nothing commanded: a reference period with the source Reference, the same time
of the internal oscillator with the source Internal (R183). The tick phase advances by one part. In fallback the edges of the
reference that the period brings, a free value, advance the measurement (R185). While the tick or the restore is due no period
passes: it is taken first, so no part of a second is lost (log entries 10 and 21). -/
def State.clockPeriod (s : State) : State :=
  if s.sup.held || s.tickDue || s.restoreDue then s
  else
    let s' := { s with sup := { s.sup with tickPhase := s.sup.tickPhase + 1 } }
    match s.sup.clock with
    | .reference => s'
    | .internal => { s' with
      sup := { s'.sup with restore := s.sup.restore.advanced (Config.referenceEdges s.edgesRead) }
      edgesRead := s.edgesRead + 1 }

end Sys2Proof.Machine
end

