-- ==== Sys2Proof/Machine/TransmitCommands.lean ====
section
/-! DEFINITION. The transmit path's requests and events (chapter 7). -/

namespace Sys2Proof.Machine

open Sys2Proof

/-- Write tone frequency (R147). -/
def writeToneFrequencyBody (index : Byte) (frequency : Half) (s : State) : Taken :=
  match readIndex 32 index with
  | none => refuse s .range
  | some i => done { s with tx := { s.tx with frequencies := s.tx.frequencies.set i (clampFrequency frequency) } } []

/-- WRITE_TONE_FREQUENCY (R147). -/
def execWriteToneFrequency (p : Port) (index : Byte) (frequency : Half) (s : State) : Host.Outcome State Fault Refusal :=
  .next (s.takeRequest p .stationOnly (writeToneFrequencyBody index frequency))

/-- Write tone pair (R148). -/
def writeTonePairBody (toneGroup indexA indexB : Byte) (s : State) : Taken :=
  match readIndex 16 toneGroup, readIndex 32 indexA, readIndex 32 indexB with
  | some g, some i, some j => done { s with tx := { s.tx with pairs := s.tx.pairs.set g ⟨i, j⟩ } } []
  | _, _, _ => refuse s .range

/-- WRITE_TONE_PAIR (R148). -/
def execWriteTonePair (p : Port) (toneGroup indexA indexB : Byte) (s : State) : Host.Outcome State Fault Refusal :=
  .next (s.takeRequest p .stationOnly (writeTonePairBody toneGroup indexA indexB))

/-- READ_TONE_TABLES (R149). -/
def execReadToneTables (p : Port) (s : State) : Host.Outcome State Fault Refusal :=
  .next (s.takeRequest p .any fun s => done s s.tx.tableFields)

/-- A planned frame assembled from the sources as they stand: its whole symbol sequence (R134, R136 to R139). -/
def State.assembleFrame (s : State) (i : TxItem) : State :=
  let data := s.frameData i
  let rate := i.kind.frameRate
  { s with tx := { s.tx.encoded data rate with assembled := some (frameSync ++ codedSymbols data rate) } }

/-- FRAME_ASSEMBLY (R134). -/
def execFrameAssembly (s : State) : Host.Outcome State Fault Refusal :=
  .next (if s.clocked then
      match s.assembling with
      | some e => s.assembleFrame e.item
      | none => s
    else s)

/-- The increments of a tone group's pair, from the tables as they stand, for a call with a start symbol (R145, R146). -/
def Transmit.toneOf (x : Transmit) (g : ToneGroup) (start : Nat) : ToneInHand :=
  ⟨start, toneIncrement x.frequencies[x.pairs[g].indexA], toneIncrement x.frequencies[x.pairs[g].indexB]⟩

/-- A tone call started: its pair and both increments are read and fixed (R145). -/
def State.startTone (s : State) (e : PlannedItem) : State :=
  match e.item.kind with
  | .toneCall g => { s with tx := { s.tx with tone := some (s.tx.toneOf g e.start) } }
  | _ => s

/-- TONE_CALL_START (R145). -/
def execToneCallStart (s : State) : Host.Outcome State Fault Refusal :=
  .next (if s.clocked then
      match s.startingTone with
      | some e => s.startTone e
      | none => s
    else s)

/-- The accumulator and the sample output after one sample time of a keyed period (R141), the silent part of a tone call
leaving the accumulator as it is (R145). -/
def Transmit.keyedSample (x : Transmit) (level : BitVec 4) : Transmit :=
  if x.silent then { x with sample := Config.midScale }
  else { x with phase := x.phase + x.increment, sample := sampleOf (x.phase + x.increment) level }

/-- One sample time (R141, R143): the sample output and the word sent. The first word after a clock restore carries 2,048
(R143, R185; log entry 7). -/
def State.takeSample (s : State) : State :=
  let x := if s.channel.keyed.isSome then s.tx.keyedSample s.channel.level else { s.tx with sample := Config.midScale }
  let y := if s.tx.restoreWord then { x with sample := Config.midScale } else x
  { s with tx := { y with dacWord := some y.sample, restoreWord := false } }

/-- SAMPLE_TIME (R141). -/
def execSampleTime (s : State) : Host.Outcome State Fault Refusal :=
  .next (if s.clocked then s.takeSample else s)

end Sys2Proof.Machine
end

