-- ==== Sys2Proof/Machine/Dispatch.lean ====
section
/-! DEFINITION. One command's effect: one arm for each row of the opcode table. -/

namespace Sys2Proof.Machine

open Sys2Proof

/-- The effect of a command on everything but the queue of commands waiting. -/
def exec (i : Instr) (s : State) : Host.Outcome State Fault Refusal :=
  match i with
  | .raise p reference plan priority cls location => Sys2Proof.Machine.execRaise p reference plan priority cls location s
  | .cancel p number => Sys2Proof.Machine.execCancel p number s
  | .escalate p number plan => Sys2Proof.Machine.execEscalate p number plan s
  | .markDeparted p number => Sys2Proof.Machine.execMarkDeparted p number s
  | .release p number => Sys2Proof.Machine.execRelease p number s
  | .recordReply p member number answer eta => Sys2Proof.Machine.execRecordReply p member number answer eta s
  | .markArrived p member number => Sys2Proof.Machine.execMarkArrived p member number s
  | .calloutReply => Sys2Proof.Machine.execCalloutReply s
  | .setAvailability p member availability => Sys2Proof.Machine.execSetAvailability p member availability s
  | .writeMember p member inUse kind address toneGroup quals groups eta availability => Sys2Proof.Machine.execWriteMember p member inUse kind address toneGroup quals groups eta availability s
  | .readMember p member => Sys2Proof.Machine.execReadMember p member s
  | .writePlanStep p plan step kind groups count toneGroup condition hold repeats rate => Sys2Proof.Machine.execWritePlanStep p plan step kind groups count toneGroup condition hold repeats rate s
  | .writeTemplate p plan officer driver wearer total target => Sys2Proof.Machine.execWriteTemplate p plan officer driver wearer total target s
  | .readPlan p plan => Sys2Proof.Machine.execReadPlan p plan s
  | .writeToneFrequency p index frequency => Sys2Proof.Machine.execWriteToneFrequency p index frequency s
  | .writeTonePair p toneGroup indexA indexB => Sys2Proof.Machine.execWriteTonePair p toneGroup indexA indexB s
  | .readToneTables p => Sys2Proof.Machine.execReadToneTables p s
  | .listCallouts p => Sys2Proof.Machine.execListCallouts p s
  | .readCallout p number => Sys2Proof.Machine.execReadCallout p number s
  | .readResponders p number => Sys2Proof.Machine.execReadResponders p number s
  | .readCrew p number => Sys2Proof.Machine.execReadCrew p number s
  | .readNotice p => Sys2Proof.Machine.execReadNotice p s
  | .readStatus p => Sys2Proof.Machine.execReadStatus p s
  | .setChannelParameters p station limit threshold mode level => Sys2Proof.Machine.execSetChannelParameters p station limit threshold mode level s
  | .startChannel p pins => Sys2Proof.Machine.execStartChannel p pins s
  | .stopChannel p => Sys2Proof.Machine.execStopChannel p s
  | .selectSite p site => Sys2Proof.Machine.execSelectSite p site s
  | .unknownRequest p code => Sys2Proof.Machine.execUnknownRequest p code s
  | .frameOpen p => Sys2Proof.Machine.execFrameOpen p s
  | .frameClose p => Sys2Proof.Machine.execFrameClose p s
  | .oneSecondTick => Sys2Proof.Machine.execOneSecondTick s
  | .holdExpiry => Sys2Proof.Machine.execHoldExpiry s
  | .planPoint pins => Sys2Proof.Machine.execPlanPoint pins s
  | .frameAssembly => Sys2Proof.Machine.execFrameAssembly s
  | .toneCallStart => Sys2Proof.Machine.execToneCallStart s
  | .completion => Sys2Proof.Machine.execCompletion s
  | .keyedPeriodEnd => Sys2Proof.Machine.execKeyedPeriodEnd s
  | .readyLoss site => Sys2Proof.Machine.execReadyLoss site s
  | .cellEnd => Sys2Proof.Machine.execCellEnd s
  | .referenceLost => Sys2Proof.Machine.execReferenceLost s
  | .restoreGap => Sys2Proof.Machine.execRestoreGap s
  | .restored pins => Sys2Proof.Machine.execRestored pins s
  | .reset => Sys2Proof.Machine.execReset s
  | .resetEnd pins => Sys2Proof.Machine.execResetEnd pins s
  | .selfTestEnd results => Sys2Proof.Machine.execSelfTestEnd results s
  | .symbolTime pins => Sys2Proof.Machine.execSymbolTime pins s
  | .sampleTime => Sys2Proof.Machine.execSampleTime s

end Sys2Proof.Machine
end

