-- ==== Sys2Proof/Safety.lean ====
section
/-! DEFINITION. The laws that the manual says the part keeps, over the whole state. The manual names no unsafe state and the
part stops on no command, so a safe run is one whose every state keeps these laws. -/

namespace Sys2Proof.Machine

open Sys2Proof

/-! ### Taking a request (R165, R167, R170) -/

/-- A port takes a known request on its own checks: its frame is Receiving, the part is not held in reset and the self-test is
over (R164, R167 check 1). -/
def State.takes (s : State) (p : Port) : Prop := s.listening p = true ∧ s.testing = false

/-- A port of Station class takes requests (R170). -/
def State.takesStation (s : State) (p : Port) : Prop := s.takes p ∧ (s.port p).cls = .station

/-- The port of a known request and who may send it (R170). -/
def requestOf : Instr → Option (Port × Permission)
  | .raise p _ _ _ _ _ => some (p, .anyUnlessFault)
  | .cancel p _ => some (p, .any)
  | .escalate p _ _ => some (p, .any)
  | .markDeparted p _ => some (p, .stationOnly)
  | .release p _ => some (p, .any)
  | .recordReply p _ _ _ _ => some (p, .stationOnly)
  | .markArrived p _ _ => some (p, .stationOnly)
  | .setAvailability p _ _ => some (p, .any)
  | .writeMember p _ _ _ _ _ _ _ _ _ => some (p, .stationOnly)
  | .readMember p _ => some (p, .any)
  | .writePlanStep p _ _ _ _ _ _ _ _ _ _ => some (p, .stationOnly)
  | .writeTemplate p _ _ _ _ _ _ => some (p, .stationOnly)
  | .readPlan p _ => some (p, .any)
  | .writeToneFrequency p _ _ => some (p, .stationOnly)
  | .writeTonePair p _ _ _ => some (p, .stationOnly)
  | .readToneTables p => some (p, .any)
  | .listCallouts p => some (p, .any)
  | .readCallout p _ => some (p, .any)
  | .readResponders p _ => some (p, .any)
  | .readCrew p _ => some (p, .any)
  | .readNotice p => some (p, .any)
  | .readStatus p => some (p, .any)
  | .setChannelParameters p _ _ _ _ _ => some (p, .stationOnly)
  | .startChannel p _ => some (p, .stationUnlessFault)
  | .stopChannel p => some (p, .stationOnly)
  | .selectSite p _ => some (p, .stationOnly)
  | .calloutReply => none
  | .unknownRequest _ _ => none
  | .frameOpen _ => none
  | .frameClose _ => none
  | .oneSecondTick => none
  | .holdExpiry => none
  | .planPoint _ => none
  | .frameAssembly => none
  | .toneCallStart => none
  | .completion => none
  | .keyedPeriodEnd => none
  | .readyLoss _ => none
  | .cellEnd => none
  | .referenceLost => none
  | .restoreGap => none
  | .restored _ => none
  | .reset => none
  | .resetEnd _ => none
  | .selfTestEnd _ => none
  | .symbolTime _ => none
  | .sampleTime => none

/-! ### Notice queues (R174) -/

/-- Every notice queue holds at most 32 notices (R174). -/
def State.queuesBounded (s : State) : Prop := ∀ p : Port, (s.port p).queue.length ≤ 32

/-! ### The roster (R4) -/

/-- Every in-use Digital member has a nonzero pager address that no other in-use Digital member has (R4). -/
def State.addressesDistinct (s : State) : Prop :=
  (∀ m : MemberIdx, (s.member m).address ≠ some 0) ∧
    ∀ m k : MemberIdx, (s.member m).address ≠ none → (s.member m).address = (s.member k).address → m = k

/-! ### The plan table (R21, R22, R24, R26, R29) -/

/-- A template is unwritten or within the ranges of a written one, with room for its role seats (R21, R22). -/
def Template.inRange (t : Template) : Prop :=
  t = .unwritten ∨
    (t.officer ≤ 1 ∧ t.driver ≤ 2 ∧ t.wearer ≤ 4 ∧ 1 ≤ t.total ∧ t.total ≤ 8 ∧ t.officer + t.driver + t.wearer ≤ t.total ∧
      60 ≤ t.target ∧ t.target ≤ 1800)

/-- A step's parameter is within its range (R24). -/
def Action.inRange : Action → Prop
  | .groupPage groups _ => groups ≠ 0
  | .shortfallPage n _ => 1 ≤ n ∧ n ≤ 16
  | .toneCall _ => True
  | .aidRequest => True

/-- A step's fields are within their ranges (R24, R26). -/
def PlanStep.inRange : PlanStep → Prop
  | .finish => True
  | .act action _ hold repeats => action.inRange ∧ 10 ≤ hold ∧ hold ≤ 900 ∧ repeats ≤ 3

/-- Every plan's fields are within their ranges, and a runnable plan has a written template (R22, R24, R26, R27 check 7). -/
def State.plansInRange (s : State) : Prop :=
  ∀ i : PlanIdx,
    s.plans[i].template.inRange ∧ (∀ j : StepIdx, s.plans[i].steps[j].inRange) ∧
      (s.plans[i].runnable = true → s.plans[i].template.written = true)

/-- Whether a slot holds an Active callout that runs plan `i` (R29). -/
def runsPlan (i : PlanIdx) : Option Callout → Bool
  | some c => c.isActive && c.plan = i
  | none => false

/-- Each plan's usage count is the number of Active callouts running it, and they run a runnable plan (R20, R29). -/
def State.usageExact (s : State) : Prop :=
  (∀ i : PlanIdx, s.plans[i].usage = allSlots.countP fun k => runsPlan i s.slots[k]) ∧
    ∀ k : SlotIdx, ∀ c ∈ s.slots[k], c.isActive = true → s.plans[c.plan].runnable = true

/-! ### The callout table (R33, R37, R47) -/

/-- No two non-Free callouts have the same tag or the same incident reference, and neither a number nor a reference is 0
(R33, R37). -/
def State.tagsDistinct (s : State) : Prop :=
  s.serialCounter ≠ 0 ∧
    (∀ k : SlotIdx, ∀ c ∈ s.slots[k], c.number ≠ 0 ∧ c.reference ≠ 0) ∧
    ∀ k j : SlotIdx, ∀ c ∈ s.slots[k], ∀ d ∈ s.slots[j],
      tagOf c.number = tagOf d.number ∨ c.reference = d.reference → k = j

/-- The fields that only an Active callout has are within their ranges, and a callout that holds or has exhausted its plan has
nothing left to send (R33, R41, R47). -/
def Callout.runInRange (c : Callout) : Prop :=
  match c.lifecycle with
  | .active run =>
    run.repeatsLeft ≤ 3 ∧
      match run.progress with
      | .holding deadline _ => 10 ≤ deadline ∧ deadline ≤ 4095 ∧ c.queue = []
      | .exhausted => c.queue = []
      | _ => True
  | .departed => True
  | .standingDown sent => sent ≤ 1

/-- A responder entry's fields are within their ranges, and it holds an estimate exactly when it is Attending or Arrived
(R63, R89, R90). -/
def Entry.inRange (e : Entry) (elapsed : Nat) : Prop :=
  e.first ≤ e.latest ∧ e.latest ≤ elapsed ∧ (∀ n ∈ e.eta, n ≤ 30 ∧ e.answer = .attending) ∧ (∀ n ∈ e.estimate, n ≤ 4095) ∧
    (e.estimate.isSome = e.isCandidate)

/-- The stored times, counts and estimates of roster, callouts and hand-offs are within their ranges, and a callout's paged
members stand there once each, over a plan table within its own (R1, R33, R45, R63). -/
def State.fieldsInRange (s : State) : Prop :=
  s.plansInRange ∧
    (∀ m : MemberIdx, (s.member m).defaultEta ≤ 30) ∧
    (∀ k : SlotIdx, ∀ c ∈ s.slots[k],
      c.elapsed ≤ 4095 ∧ c.pagedMembers.Nodup ∧ c.runInRange ∧ ∀ e ∈ c.entries, e.inRange c.elapsed) ∧
    ∀ h ∈ s.handOffs, ∀ n ∈ h.eta, n ≤ 30

/-! ### Responder lists and engagement (R64, R66) -/

/-- Every responder list holds at most 24 entries and never the same member twice (R64). -/
def State.listsBounded (s : State) : Prop :=
  ∀ k : SlotIdx, ∀ c ∈ s.slots[k], c.entries.length ≤ 24 ∧ (c.entries.map (·.member)).Nodup

/-- An engagement is backed: it names an Active callout, or a Departed one whose crew the member is in, whose list holds an
Attending or Arrived entry for the member (R66). -/
def State.engagementsBacked (s : State) : Prop :=
  ∀ (m : MemberIdx) (n : Half), (s.member m).engagement.callout = some n →
    ∃ k : SlotIdx, ∃ c ∈ s.slots[k],
      c.number = n ∧ (c.isActive = true ∨ (c.lifecycle = .departed ∧ (s.member m).engagement = .assigned n)) ∧
        ∃ e ∈ c.entries, e.member = m ∧ e.isCandidate = true

/-- In an Active callout, a seated entry's member is Assigned, a Standby entry's member is Responding, and exactly the
candidates are seated or Standby (R91, R100, R101). -/
def State.seatsEngaged (s : State) : Prop :=
  ∀ k : SlotIdx, ∀ c ∈ s.slots[k], c.isActive = true → ∀ e ∈ c.entries,
    match e.seat with
    | .seated _ => e.isCandidate = true ∧ (s.member e.member).engagement = .assigned c.number
    | .standby => e.isCandidate = true ∧ (s.member e.member).engagement = .responding c.number
    | .unseated => e.isCandidate = false

/-- Every callout reply on its way from the receiver carries the answer Attending or Declined (R67, R161). -/
def State.handOffsAnswer (s : State) : Prop := ∀ h ∈ s.handOffs, h.answer = .attending ∨ h.answer = .declined

/-- The engagement law (R66), with the laws it rests on: distinct callout numbers (R37), lists without repeats (R64) and replies
on their way that answer Attending or Declined (R67). -/
def State.engagementLaw (s : State) : Prop :=
  s.tagsDistinct ∧ s.listsBounded ∧ s.handOffsAnswer ∧ s.engagementsBacked ∧ s.seatsEngaged

/-! ### Transmission queues and code rates (R33, R41, R46, R49) -/

/-- The items of the cycle plan still to be sent that carry a callout number and a step serial (R47, R126). -/
def State.inFlight (s : State) (number : Half) (serial : Byte) : Nat :=
  s.channel.plan.countP fun e => e.unsent && e.item.callout = number && e.item.serial = serial

/-- A transmission queue holds at most 16 items, together with those of its callout's present serial that are on their way, so
that a return finds room for them (R46, R126). Its items carry the callout's number and present serial, and a callout that
holds or has exhausted its plan has none, queued or on their way (R41, R47). -/
def State.queuesBounded16 (s : State) : Prop :=
  ∀ k : SlotIdx, ∀ c ∈ s.slots[k],
    (∀ i ∈ c.queue, i.callout = c.number ∧ i.serial = c.serial) ∧
      c.queue.length + s.inFlight c.number c.serial ≤ 16 ∧
      match c.lifecycle with
      | .active ⟨.holding _ _, _, _⟩ => c.queue = [] ∧ s.inFlight c.number c.serial = 0
      | .active ⟨.exhausted, _, _⟩ => c.queue = [] ∧ s.inFlight c.number c.serial = 0
      | _ => True

/-- Whether a step sends frames at a rate: a Group page or a Shortfall page (R24). -/
def PlanStep.pages : PlanStep → Bool
  | .act action _ _ _ => action.rate.isSome
  | .finish => false

/-- An Active callout has a code rate exactly while the step it entered last pages, and none once its plan is exhausted (R33,
R41). -/
def State.ratesMatch (s : State) : Prop :=
  ∀ k : SlotIdx, ∀ c ∈ s.slots[k],
    match c.lifecycle with
    | .active ⟨.exhausted, _, rate⟩ => rate = none
    | .active ⟨_, _, rate⟩ => rate.isSome = (s.plans[c.plan].steps[c.step]).pages
    | _ => True

/-- The law of the transmission queues (R33, R46), with the laws it rests on. -/
def State.queueLaw (s : State) : Prop :=
  s.tagsDistinct ∧ s.fieldsInRange ∧ s.usageExact ∧ s.queuesBounded16 ∧ s.ratesMatch

/-- No callout takes up a number and a serial, between two states, under which an item is still to be sent. It is what R49 says of
the part: a wrap of the serial takes 256 increments, and no item lives long enough in the cycle plan to meet its own serial
again (log entry 22). -/
def serialsFresh (s t : State) : Prop :=
  ∀ k : SlotIdx, ∀ c ∈ t.slots[k],
    (s.slots[k]).map (fun d => (d.number, d.serial)) ≠ some (c.number, c.serial) → s.inFlight c.number c.serial = 0

/-- The Freed notices that stop the Standing down callouts of a state, in slot order, raised after the notices of `u` (R58,
R110). -/
def State.tellFreed (s u : State) : State :=
  (List.finRange 8).foldl (fun u k =>
    match s.slots[k] with
    | some c =>
      match c.lifecycle with
      | .standingDown _ => u.raiseNotice (s.interested c) ⟨.freed, c.number, 255, 3, 0, 0, 0⟩
      | _ => u
    | none => u) u

/-- What the callout engine leaves in a slot when the channel becomes Stopped (R58). -/
def Callout.afterStop (c : Callout) : Option Callout :=
  match c.lifecycle with
  | .active _ => some c
  | .departed => some { c with queue := [] }
  | .standingDown _ => none

/-! ### The channel (R107, R116, R117, R122) -/

/-- The planned items stand back to back from a start symbol, each at its cost (R117). -/
def laidOut : Nat → List PlannedItem → Prop
  | _, [] => True
  | start, e :: rest => e.start = start ∧ e.cost = e.item.kind.cost ∧ laidOut (start + e.cost) rest

/-- The items of the cycle plan stand back to back from symbol 240 and cost at most 17,760 symbol times (R116, R117). -/
def State.cyclePlanFits (s : State) : Prop :=
  laidOut 240 s.channel.plan ∧ (s.channel.plan.map (·.cost)).sum ≤ 17760

/-- The cycle position is within its sections (R112). -/
def CyclePos.inRange : CyclePos → Prop
  | .absent => True
  | .lead _ j => j < 240
  | .cycle p => p ≤ 23760

/-- A keyed position lies in a G section or no later than the end of the keyed period (R122). -/
def Channel.keyedWithin (c : Channel) : Prop :=
  match c.pos with
  | .absent => False
  | .lead _ _ => True
  | .cycle p => p ≤ periodEnd c.plan

/-- A cycle runs exactly in Running and Stopping, which need the reference clock, and a site is keyed only in a keyed period of
a plan that fits the O section (R107, R122, R129). -/
def State.keyingLaw (s : State) : Prop :=
  s.cyclePlanFits ∧ s.channel.pos.inRange ∧ (s.channel.state.cycling = true ↔ s.channel.pos ≠ .absent) ∧
    (s.channel.state.cycling = true → s.sup.clock = .reference) ∧
    (s.channel.keyed.isSome = true → s.channel.keyedWithin)

/-! ### The sample output (R143) -/

/-- The sample output lies between 1 and 4,095 while a site is keyed and equals 2,048 while none is keyed (R143). -/
def State.sampleLaw (s : State) : Prop :=
  match s.channel.keyed with
  | some _ => 1 ≤ s.tx.sample.toNat ∧ s.tx.sample.toNat ≤ 4095
  | none => s.tx.sample = 2048#12

end Sys2Proof.Machine
end

