-- ==== Sys2Proof/Certificates/Slice0/Obligations.lean ====
section
/-! DEFINITION. The statements for the provers, family by family. Each is a rule of the manual, or a consequence that its
docstring names. -/

open Sys2Proof Sys2Proof.Machine

/-! ### The machine -/

/-- A step takes the command at the front of the queue and carries it out on the state with the rest of the queue. That the
commands wait in a queue, first in, first out, is the model's choice (log entry 1): no rule of the manual names a queue, only that
the part's steps are whole and indivisible. -/
def Obligations.StepTakesTheFrontCommand : Prop :=
  ∀ (c : Instr) (rest : List Instr) (s : State),
    step { s with pending := c :: rest } = exec c { s with pending := rest }

/-- Every command is carried out: it answers a next state, in which the commands that wait are the same. The manual names no
condition on which the part halts; that a command leaves the queue alone is the model's choice (log entry 1). -/
def Obligations.CommandsAnswerAndLeaveTheQueue : Prop :=
  ∀ (c : Instr) (s : State), ∃ t, exec c s = .next t ∧ t.pending = s.pending

/-- A command whose event cannot occur in the present state changes nothing, which is the model's choice (log entry 3), among
them a tick and a restore that are not due (R183, R185, R186). While the part is held in reset every command but RESET and
RESET_END changes nothing, and so does a step with none waiting (R180, log entry 11). No event of the cycle, no symbol time and
no sample time is taken without the reference clock, nor an event of the cycle or a symbol time where no cycle runs. A step with
no command waiting is the model's too (log entries 10 and 21): it lets one period of the clock that counts time pass, with the
free number of reference edges that it brings in fallback, and none while a tick or a restore is due. -/
def Obligations.UndueEventsChangeNothing : Prop :=
  ∀ s : State,
    (s.clocked = true ↔ s.sup.held = false ∧ s.sup.clock = .reference) ∧
    (∀ (c : Instr) (p : Port) (bytes : List Byte),
      encodeFrame c = some (p, bytes) → s.listening p = false → exec c s = .next s) ∧
    (∀ (p : Port) (code : Byte), namesRequest code = true → exec (.unknownRequest p code) s = .next s) ∧
    (∀ p : Port, (s.port p).selLow = true → exec (.frameOpen p) s = .next s) ∧
    (s.handOffs = [] → exec .calloutReply s = .next s) ∧
    (s.sup.tickPhase < 9830400 → exec .oneSecondTick s = .next s) ∧
    ((∀ k : SlotIdx, ∀ c ∈ s.slots[k], ∀ deadline repeats rate,
      c.lifecycle ≠ .active ⟨.holding deadline true, repeats, rate⟩) → exec .holdExpiry s = .next s) ∧
    (s.completing = none → exec .completion s = .next s) ∧
    (s.assembling = none → exec .frameAssembly s = .next s) ∧
    (s.startingTone = none → exec .toneCallStart s = .next s) ∧
    (s.periodEnding = false → exec .keyedPeriodEnd s = .next s) ∧
    (s.endingCell = none → exec .cellEnd s = .next s) ∧
    (∀ pins, s.planPointDue = false → exec (.planPoint pins) s = .next s) ∧
    (∀ site, s.channel.keyed ≠ some site → exec (.readyLoss site) s = .next s) ∧
    (∀ pins, s.eventDue = true → exec (.symbolTime pins) s = .next s) ∧
    (s.sup.held = true →
      (∀ c : Instr, c ≠ .reset → (∀ pins, c ≠ .resetEnd pins) → exec c s = .next s) ∧
      (s.pending = [] → step s = .next s)) ∧
    (s.sup.held = true ∨ s.sup.clock = .internal ∨ s.channel.pos = .absent →
      (∀ pins, exec (.planPoint pins) s = .next s) ∧ exec .frameAssembly s = .next s ∧ exec .toneCallStart s = .next s ∧
      exec .completion s = .next s ∧ exec .keyedPeriodEnd s = .next s ∧ exec .cellEnd s = .next s ∧
      ∀ pins, exec (.symbolTime pins) s = .next s) ∧
    (s.channel.state = .stopped ∨ s.channel.state = .suspended →
      (∀ pins, exec (.planPoint pins) s = .next s) ∧ ∀ pins, exec (.symbolTime pins) s = .next s) ∧
    (s.sup.held = true ∨ s.sup.clock = .internal → exec .sampleTime s = .next s ∧ exec .referenceLost s = .next s) ∧
    (s.sup.clock = .internal → s.sup.restore = .idle → exec .restoreGap s = .next s) ∧
    (∀ pins, s.sup.clock = .reference ∨ (∀ n, s.sup.restore = .measuring n → n < 9830400) →
      exec (.restored pins) s = .next s) ∧
    (∀ pins, s.sup.held = false → exec (.resetEnd pins) s = .next s) ∧
    (∀ results, s.testing = false → exec (.selfTestEnd results) s = .next s) ∧
    (s.pending = [] → s.sup.held = false →
      ((9830400 ≤ s.sup.tickPhase ∨ ∃ n, s.sup.restore = .measuring n ∧ 9830400 ≤ n) → step s = .next s) ∧
      (s.sup.tickPhase < 9830400 → (∀ n, s.sup.restore = .measuring n → n < 9830400) →
        (s.sup.clock = .reference →
          step s = .next { s with sup := { s.sup with tickPhase := s.sup.tickPhase + 1 } }) ∧
        (s.sup.clock = .internal →
          step s = .next { s with
            edgesRead := s.edgesRead + 1
            sup := { s.sup with
              tickPhase := s.sup.tickPhase + 1
              restore := match s.sup.restore with
                | .idle => .idle
                | .measuring n => .measuring (min 9830400 (n + Config.referenceEdges s.edgesRead)) } })))

/-- The machine right after reset keeps every law of the manual. -/
def Obligations.ResetStateKeepsEveryLaw : Prop :=
  State.reset.queuesBounded ∧ State.reset.addressesDistinct ∧ State.reset.fieldsInRange ∧ State.reset.usageExact ∧
    State.reset.engagementLaw ∧ State.reset.queueLaw ∧ State.reset.keyingLaw ∧ State.reset.sampleLaw

/-! ### Request frames -/

/-- The bytes of every well-formed request, clocked in a frame at its port, spell that request; so do their bits, the most
significant of each byte first, with the bits of a byte that is not whole after them (R164, R171, 11.2). -/
def Obligations.RequestFramesReadBack : Prop :=
  ∀ (c : Instr) (p : Port) (bytes : List Byte) (pins : SitePins),
    c.wellFormed = true → encodeFrame c = some (p, bytes) →
      decodeFrame p (takePins pins c) bytes = some c ∧
      ∀ tail : List Bool, tail.length < 8 → decodeBits p (takePins pins c)
        ((bytes.flatMap fun b => (List.range 8).map fun i => b.getLsbD (7 - i)) ++ tail) = some c

/-- A request is spelt by the bytes its code takes and by no fewer, bytes after them change nothing, and a code that names no
request is a request's worth by itself (R164 to R167, R171). The bits taken at SDI are grouped into bytes of eight, the most
significant first, and a request is spelt from the last bit of its last byte on (R164, R165). -/
def Obligations.RequestTakenAtItsLastByte : Prop :=
  ([1, 2, 3, 4, 5, 8, 9, 10, 16, 17, 24, 25, 26, 32, 33, 34, 40, 41, 42, 43, 48, 49, 56, 57, 58, 59].map requestLength =
    [11, 3, 4, 3, 3, 6, 4, 3, 13, 2, 13, 8, 2, 4, 4, 1, 1, 3, 3, 3, 1, 1, 6, 1, 1, 2].map some) ∧
  (∀ bits : List Bool, (bytesOfBits bits).length = bits.length / 8 ∧
    ∀ (i : Nat) (b : Byte), (bytesOfBits bits)[i]? = some b → ∀ j, j < 8 → bits[8 * i + j]? = some (b.getLsbD (7 - j))) ∧
  (∀ (p : Port) (pins : SitePins) (bits : List Bool) (code : Byte) (n : Nat), (bytesOfBits bits).head? = some code →
    requestLength code = some n → (decodeBits p pins bits = none ↔ bits.length < 8 * n)) ∧
  ∀ (p : Port) (pins : SitePins) (code : Byte) (rest extra : List Byte),
    (namesRequest code = true ↔ requestLength code ≠ none) ∧
    (∀ n, requestLength code = some n →
      (decodeFrame p pins (code :: rest) = none ↔ (code :: rest).length < n) ∧
      (n ≤ (code :: rest).length →
        decodeFrame p pins (code :: rest ++ extra) = decodeFrame p pins (code :: rest))) ∧
    (requestLength code = none → decodeFrame p pins (code :: rest) = some (.unknownRequest p code))

/-- A frame opens when the select line goes low and closes when it goes high, at its own port alone (R164, R166). A closed
frame has no response in hand; the queue, the mark and the class stay. SDO is driven exactly while the frame is open: zeros while
the request is received, then the bytes of the response in order and zeros after its end, each byte's most significant bit first
(R164). A port takes request bytes while its frame is Receiving, and a response is put in hand by entering Responding at that port
alone (R164, R165). -/
def Obligations.FramesOpenAndClose : Prop :=
  (∀ (s : State) (p : Port),
    (s.listening p = true ↔ s.sup.held = false ∧ (s.port p).frame = .receiving) ∧
    (s.drivesData p = true ↔ (s.port p).frame ≠ .closed) ∧
    (∀ n, (s.port p).frame = .receiving → s.responseByte p n = 0) ∧
    (∀ bytes, (s.port p).frame = .responding bytes →
      (∀ n b, bytes[n]? = some b → s.responseByte p n = b) ∧ ∀ n, bytes.length ≤ n → s.responseByte p n = 0) ∧
    (∀ n, (s.port p).frame ≠ .closed → s.responseBit p n = some ((s.responseByte p (n / 8)).getLsbD (7 - n % 8))) ∧
    (∀ n, (s.port p).frame = .closed → s.responseBit p n = none) ∧
    ∀ bytes, (s.respond p bytes).port p = { s.port p with frame := .responding bytes } ∧
      (∀ q, q ≠ p → (s.respond p bytes).port q = s.port q) ∧ { s.respond p bytes with ports := s.ports } = s) ∧
  ∀ (s : State) (p : Port), s.sup.held = false →
    ((s.port p).selLow = false → ∃ t, exec (.frameOpen p) s = .next t ∧
      t.port p = { s.port p with frame := .receiving, selLow := true } ∧
      (∀ q, q ≠ p → t.port q = s.port q) ∧ { t with ports := s.ports } = s) ∧
    (∃ t, exec (.frameClose p) s = .next t ∧
      t.port p = { s.port p with frame := .closed, selLow := false } ∧
      (∀ q, q ≠ p → t.port q = s.port q) ∧ { t with ports := s.ports } = s)

/-- The checks that stand before a request's own, in their order: Busy, Class, Fault. An unknown code is answered Unknown in
every state of the part. Each leaves everything but the port's response in hand as it was (R167, R170). -/
def Obligations.PortChecksComeFirst : Prop :=
  (∀ s : State, (s.testing = true ↔ s.sup.selfTest = .testing) ∧
    (s.faultMode = true ↔ ∃ r : GroupResults, s.sup.selfTest = .ended r ∧
      (r.roster = true ∨ r.callouts = true ∨ r.plansAndTones = true ∨ r.noticeQueues = true))) ∧
  ∀ (s : State) (p : Port), s.listening p = true →
    (∀ (c : Instr) (perm : Permission), requestOf c = some (p, perm) →
      (s.testing = true → exec c s = .next (s.respond p [2])) ∧
      (s.testing = false → perm.needsStation = true → (s.port p).cls = .dispatch →
        exec c s = .next (s.respond p [3])) ∧
      (s.testing = false → (perm.needsStation = true → (s.port p).cls = .station) → perm.needsWorking = true →
        s.faultMode = true → exec c s = .next (s.respond p [7]))) ∧
    ∀ code, namesRequest code = false → exec (.unknownRequest p code) s = .next (s.respond p [8])

/-- Every read is answered Done with a snapshot and changes nothing but the port's response in hand, from either class and in
fault mode; an index out of range is answered Range and a number that names no callout State (R18, R31, R60, R83, R105, R149,
R178). A number names the non-Free callout that holds it (R33). -/
def Obligations.ReadsAnswerWithoutEffect : Prop :=
  (∀ (s : State) (n : Half) (k : SlotIdx) (c : Callout), s.tagsDistinct →
    (s.lookup n = some (k, c) ↔ s.slots[k] = some c ∧ c.number = n)) ∧
  ∀ (s : State) (p : Port), s.takes p →
    (∀ m : MemberIdx, exec (.readMember p (byteOf m)) s = .next (s.respond p (0 :: (s.member m).fields))) ∧
    (∀ i : PlanIdx, exec (.readPlan p (byteOf i)) s = .next (s.respond p (0 :: s.plans[i].fields))) ∧
    exec (.readToneTables p) s = .next (s.respond p (0 :: s.tx.tableFields)) ∧
    exec (.listCallouts p) s = .next (s.respond p (0 :: s.slots.toList.flatMap slotFields)) ∧
    exec (.readStatus p) s = .next (s.respond p (0 :: s.statusFields p)) ∧
    (∀ (n : Half) (k : SlotIdx) (c : Callout), s.lookup n = some (k, c) →
      exec (.readCallout p n) s = .next (s.respond p (0 :: c.fields k)) ∧
      exec (.readResponders p n) s = .next (s.respond p (0 :: c.listFields)) ∧
      exec (.readCrew p n) s = .next (s.respond p (0 :: c.crewFields))) ∧
    (∀ b : Byte, 96 ≤ b.toNat → exec (.readMember p b) s = .next (s.respond p [4])) ∧
    (∀ b : Byte, 16 ≤ b.toNat → exec (.readPlan p b) s = .next (s.respond p [4])) ∧
    (∀ n : Half, s.lookup n = none →
      exec (.readCallout p n) s = .next (s.respond p [5]) ∧
      exec (.readResponders p n) s = .next (s.respond p [5]) ∧
      exec (.readCrew p n) s = .next (s.respond p [5]))

/-- The response fields of every read, byte by byte in the layout of 11.2 with the codings of R189, and the notice record of R190.
Their length is that of R171, less the result byte; those of Read crew for an assignment of at most eight seats and three roles.
The bits that no row of R189 names are 0 by the model's choice (log entry 20), and the absent fields of an End step and of a seat
beyond the template are those of log entry 15. That a Standby entry without an estimate, which no run reaches, is ranked by 4,095
is the model's choice (log entry 14), and so are the status fields while the self-test runs, with every group as passed, which no
port reads since Read status is then answered Busy (log entry 24). -/
def Obligations.ResponsesHaveTheirLengths : Prop :=
  let two := fun x : Half => ([x.extractLsb' 8 8, x.extractLsb' 0 8] : List Byte)
  let flag := fun b : Bool => if b = true then (1 : Byte) else 0
  let num := fun n : Nat => BitVec.ofNat 8 n
  let num2 := fun n : Nat => two (BitVec.ofNat 16 n)
  let opt := fun o : Option Nat => match o with
    | some n => num n
    | none => 255
  let opt2 := fun o : Option Nat => match o with
    | some n => num2 n
    | none => [255, 255]
  (([Availability.available, .unavailable].map (·.code) = [0, 1] ∧
      [AvailabilitySource.reset, .port .a, .port .b, .port .c, .pager].map (·.code) = [0, 1, 2, 3, 4] ∧
      [ReplySource.radio, .port .a, .port .b, .port .c].map (·.code) = [0, 1, 2, 3] ∧
      [CodeRate.half, .twoThirds, .threeQuarters].map (·.code) = [0, 1, 2] ∧
      [Condition.always, .ifShort, .ifShortOrLate].map (·.code) = [0, 1, 2] ∧
      [Answer.attending, .declined, .arrived, .withdrawn].map (markedAnswer · false) = [0, 1, 2, 3] ∧
      [Answer.attending, .declined, .arrived, .withdrawn].map (markedAnswer · true) = [128, 129, 130, 131] ∧
      [Seat.seated .officer, .seated .driver, .seated .wearer, .seated .crew, .standby, .unseated].map (·.code) =
        [0, 1, 2, 3, 4, 5] ∧
      [SeatRole.officer, .driver, .wearer, .crew].map (·.code) = [0, 1, 2, 3] ∧
      [Role.officer, .driver, .wearer].map (·.code) = [0, 1, 2] ∧
      [CrewStatus.short, .late, .ready].map (·.code) = [0, 1, 2] ∧
      [Port.a, .b, .c].map portCode = [1, 2, 3] ∧ [Site.a, .b].map siteCode = [0, 1] ∧
      (∀ n, n < 256 → (byteOf n).toNat = n) ∧
      [ChannelState.stopped, .running, .stopping, .suspended].map (·.code) = [0, 1, 2, 3] ∧
      [NoticeKind.none, .raised, .merged, .crewStatus, .planExhausted, .aidNeeded, .departed, .freed, .reply, .listFull,
        .availability, .siteChanged, .siteFault, .clockFallback, .clockRestored, .receptionQuality, .channelState].map
          (·.code) = [0, 1, 2, 3, 4, 5, 6, 7, 8, 9, 10, 11, 12, 13, 14, 15, 16])) ∧
  (∀ x : Member, x.fields.length + 1 = 19 ∧
    x.fields =
      (match x.pager with
        | .absent => [flag x.inUse, 0, 0, 0, 0, 255]
        | .digital a _ => [flag x.inUse, 1, (a.setWidth 24).extractLsb' 16 8, a.extractLsb' 8 8, a.extractLsb' 0 8, 255]
        | .tone g => [flag x.inUse, 2, 0, 0, 0, num g.val]) ++
      [flag x.quals.officer + 2 * flag x.quals.driver + 4 * flag x.quals.wearer] ++
      (match x.pager with
        | .digital _ groups => two (groups.setWidth 16)
        | _ => [0, 0]) ++
      [num x.defaultEta, x.availability.code, x.source.code] ++
      (match x.engagement with
        | .free => [0, 0, 0]
        | .responding n => 1 :: two n
        | .assigned n => 2 :: two n) ++
      (match x.lastHeard with
        | none => [0, 0, 0]
        | some n => 1 :: two n)) ∧
  (∀ x : Plan, x.fields.length + 1 = 73 ∧
    x.fields = [num x.template.officer, num x.template.driver, num x.template.wearer, num x.template.total] ++
      num2 x.template.target ++ [if x.steps[0] = .finish then 0 else 1, num x.usage] ++
      x.steps.toList.flatMap fun step => match step with
        | .finish => [0, 0, 0, 255, 255, 255, 255, 255]
        | .act (.groupPage groups rate) cond hold repeats =>
          1 :: two (groups.setWidth 16) ++ cond.code :: num2 hold ++ [num repeats, rate.code]
        | .act (.shortfallPage n rate) cond hold repeats => 2 :: num2 n ++ cond.code :: num2 hold ++ [num repeats, rate.code]
        | .act (.toneCall g) cond hold repeats => 3 :: num2 g.val ++ cond.code :: num2 hold ++ [num repeats, 255]
        | .act .aidRequest cond hold repeats => 4 :: 0 :: 0 :: cond.code :: num2 hold ++ [num repeats, 255]) ∧
  (∀ x : Transmit, x.tableFields.length + 1 = 97 ∧
    x.tableFields = x.frequencies.toList.flatMap two ++
      x.pairs.toList.flatMap fun e => [num e.indexA.val, num e.indexB.val]) ∧
  (∀ s : State, (s.slots.toList.flatMap slotFields).length + 1 = 25 ∧
    s.slots.toList.flatMap slotFields = s.slots.toList.flatMap fun slot => match slot with
      | none => [0, 0, 0]
      | some c => two c.number ++ [match c.lifecycle with
        | .active _ => 1
        | .departed => 2
        | .standingDown _ => 3]) ∧
  (∀ (c : Callout) (k : SlotIdx), (c.fields k).length + 1 = 34 ∧
    c.fields k =
      num k.val :: two c.number ++
      [c.reference.extractLsb' 24 8, c.reference.extractLsb' 16 8, c.reference.extractLsb' 8 8, c.reference.extractLsb' 0 8,
        c.cls, (c.location.setWidth 24).extractLsb' 16 8, c.location.extractLsb' 8 8, c.location.extractLsb' 0 8,
        flag c.origins.a + 2 * flag c.origins.b + 4 * flag c.origins.c, num c.priority.toNat] ++
      (match c.lifecycle with
        | .active run => [1, match run.progress with
          | .queued => 0
          | .alerting => 1
          | .holding _ _ => 2
          | .exhausted => 3]
        | .departed => [2, 255]
        | .standingDown _ => [3, 255]) ++
      [num c.plan.val, num c.step.val] ++
      (match c.lifecycle with
        | .active run => [num run.repeatsLeft, match run.rate with
          | some rate => rate.code
          | none => 255]
        | _ => [255, 255]) ++
      [c.serial] ++
      (match c.lifecycle with
        | .active ⟨.holding deadline _, _, _⟩ => num2 deadline
        | _ => [255, 255]) ++
      num2 c.elapsed ++ two (c.pagedGroups.setWidth 16) ++ [num c.pagedMembers.length] ++ two c.tonesCalled ++
      [num c.queue.length, num c.entries.length, c.crew.status.code, match c.lifecycle with
        | .standingDown sent => num sent
        | _ => 255]) ∧
  (∀ c : Callout, c.listFields.length + 1 = 5 + 11 * c.entries.length ∧
    c.listFields = two c.number ++ [c.lifecycle.code, num c.entries.length] ++ c.entries.flatMap fun e =>
      [num e.member.val, markedAnswer e.answer e.mark, opt e.eta, e.source.code] ++ num2 e.first ++ num2 e.latest ++
        opt2 e.estimate ++ [e.seat.code]) ∧
  (∀ c : Callout, c.crew.seats.length ≤ 8 → c.crew.roleOrder.length ≤ 3 →
    let standby := c.entries.filter fun e => e.seat = .standby
    let est := fun e : Entry => e.estimate.getD 4095
    c.crewFields.length + 1 = 53 + 3 * standby.length ∧
    ∃ order : List Entry, order.Perm standby ∧
      (order.Pairwise fun x y => est x < est y ∨ (est x = est y ∧ x.member ≤ y.member)) ∧
      c.crewFields = two c.number ++ [c.lifecycle.code, c.crew.status.code] ++ opt2 c.crew.ready ++
        [num c.crew.missing.officer, num c.crew.missing.driver, num c.crew.missing.wearer, num c.crew.missing.crew,
          num c.crew.applied.officer, num c.crew.applied.driver, num c.crew.applied.wearer, num c.crew.applied.crew] ++
        num2 c.crew.target ++ (c.crew.roleOrder.map (·.code) ++ List.replicate (3 - c.crew.roleOrder.length) 255) ++
        (c.crew.seats.flatMap fun seat => match seat.member with
          | none => [seat.role.code, 255, 255, 255]
          | some m => seat.role.code :: num m.val :: opt2 ((c.entries.find? fun e => e.member = m).bind (·.estimate))) ++
        List.replicate (4 * (8 - c.crew.seats.length)) 255 ++
        num standby.length :: order.flatMap fun e => num e.member.val :: opt2 e.estimate) ∧
  (∀ n : Notice, n.bytes.length + 2 = 10 ∧ n.bytes = n.kind.code :: two n.callout ++ [n.member, n.v0, n.v1, n.v2, n.v3]) ∧
  ∀ (s : State) (p : Port), (s.statusFields p).length + 1 = 16 ∧
    ∀ r : GroupResults, (s.sup.selfTest = .ended r ∨ s.sup.selfTest = .testing ∧ r = ⟨false, false, false, false⟩) →
      s.statusFields p = s.channel.state.code :: two s.channel.cycle ++
        [match s.channel.selected with
          | .a => 0
          | .b => 1,
        match s.channel.keyed with
          | some .a => 0
          | some .b => 1
          | none => 2,
        match s.channel.mode with
          | .request => 0
          | .pin => 1,
        match s.sup.clock with
          | .reference => 0
          | .internal => 1,
        match s.channel.quality with
          | .good => 0
          | .poor => 1,
        flag r.roster + 2 * flag r.callouts + 4 * flag r.plansAndTones + 8 * flag r.noticeQueues,
        flag (r.roster || r.callouts || r.plansAndTones || r.noticeQueues),
        flag (s.ports.a.cls = .station) + 2 * flag (s.ports.b.cls = .station) + 4 * flag (s.ports.c.cls = .station) +
          (match p with
            | .a => 16
            | .b => 32
            | .c => 48),
        s.channel.station, num s.channel.distanceLimit.toNat, num s.channel.degradeThreshold, num s.channel.level.toNat]

/-- Read notice acts on the queue and mark of its own port alone: Busy while the self-test runs; otherwise it answers Done with
the mark as it stood and the oldest notice, or the record of kind None, removes that notice and clears the mark, and both stand
when the frame closes (R175). The attention line is then active exactly while a notice is left: that is R176, and where the first
item of R179 says otherwise it is the model's choice (log entry 19). -/
def Obligations.ReadNoticeTakesTheOldest : Prop :=
  ∀ (s : State) (p : Port), s.listening p = true →
    (s.testing = true → exec (.readNotice p) s = .next (s.respond p [2])) ∧
    (s.testing = false → ∃ t, exec (.readNotice p) s = .next t ∧
      t.port p = { s.port p with
        frame := .responding (0 :: (if (s.port p).overflow then 1 else 0) ::
          match (s.port p).queue with
          | [] => [0, 0, 0, 255, 0, 0, 0, 0]
          | n :: _ => n.bytes)
        queue := (s.port p).queue.tail
        overflow := false } ∧
      (∀ q, q ≠ p → t.port q = s.port q) ∧ { t with ports := s.ports } = s ∧
      (t.attention p = true ↔ (s.port p).queue.tail ≠ []) ∧
      ∀ u, exec (.frameClose p) t = .next u →
        (u.port p).queue = (s.port p).queue.tail ∧ (u.port p).overflow = false)

/-- A notice reaches exactly the ports of its route: appended while the queue holds fewer than 32, dropped with the mark set
from 32 on, and dropped with the mark set while the self-test runs. Nothing else changes. The interested ports of a callout are
its origins and every port of Station class (R59, R173, R174, R176, R177). -/
def Obligations.NoticesReachExactlyTheirRoute : Prop :=
  ∀ (s : State) (route : PortSet) (n : Notice) (p : Port),
    { s.raiseNotice route n with ports := s.ports } = s ∧
    (route.has p = false → (s.raiseNotice route n).port p = s.port p) ∧
    (route.has p = true → s.testing = false → (s.port p).queue.length < 32 →
      (s.raiseNotice route n).port p = { s.port p with queue := (s.port p).queue ++ [n] }) ∧
    (route.has p = true → s.testing = true ∨ 32 ≤ (s.port p).queue.length →
      (s.raiseNotice route n).port p = { s.port p with overflow := true }) ∧
    (route.has p = true → s.sup.held = false → (s.raiseNotice route n).attention p = true) ∧
    (s.attention p = true ↔ s.sup.held = false ∧ ((s.port p).queue ≠ [] ∨ (s.port p).overflow = true)) ∧
    (route.has .a = route.a ∧ route.has .b = route.b ∧ route.has .c = route.c) ∧
    (s.stations.has p = true ↔ (s.port p).cls = .station) ∧
    ∀ c : Callout, (s.interested c).has p = true ↔ c.origins.has p = true ∨ (s.port p).cls = .station

/-- No step leaves a notice queue with more than 32 notices (R174). -/
def Obligations.NoticeQueuesStayBounded : Prop :=
  ∀ s t : State, s.queuesBounded → step s = .next t → t.queuesBounded

/-! ### The roster -/

/-- Set availability from either class, in every engagement: Range for a field out of range, State for a member not in use,
and otherwise the value and the requesting port stored and an Availability notice to the Station-class ports, also when the
value is the one held (R10). -/
def Obligations.SetAvailabilityStoresAndTells : Prop :=
  ∀ (s : State) (p : Port), s.takes p →
    (∀ member value : Byte, 96 ≤ member.toNat ∨ 2 ≤ value.toNat →
      exec (.setAvailability p member value) s = .next (s.respond p [4])) ∧
    ∀ (m : MemberIdx) (value : Byte), value.toNat < 2 →
      ((s.member m).inUse = false → exec (.setAvailability p (byteOf m) value) s = .next (s.respond p [5])) ∧
      ((s.member m).inUse = true →
        exec (.setAvailability p (byteOf m) value) s = .next
          (((s.setMember m { s.member m with
              availability := if value = 0 then .available else .unavailable, source := .port p }).raiseNotice s.stations
            ⟨.availability, 0, byteOf m, value, portCode p, 0, 0⟩).respond p [0]))

/-- Write member, its checks in order and its effect: Class from a Dispatch port; Range for the index; State for an engaged
member; the clearing of the record by In use = No, whatever the other fields; Range for a field out of range; State for a
pager address that another in-use Digital member holds; and otherwise the record replaced, its engagement and last heard kept.
An Availability notice follows a change of availability (R12, R15 to R17). -/
def Obligations.WriteMemberReplacesTheRecord : Prop :=
  ∀ (s : State) (p : Port) (inUse kind : Byte) (address : Three) (toneGroup quals : Byte) (groups : Half)
      (eta availability : Byte), s.takes p →
    let write := fun member : Byte => exec (.writeMember p member inUse kind address toneGroup quals groups eta availability) s
    ((s.port p).cls = .dispatch → ∀ member, write member = .next (s.respond p [3])) ∧
    ((s.port p).cls = .station →
      (∀ member : Byte, 96 ≤ member.toNat → write member = .next (s.respond p [4])) ∧
      ∀ m : MemberIdx,
        ((s.member m).engagement ≠ .free → write (byteOf m) = .next (s.respond p [5])) ∧
        ((s.member m).engagement = .free →
          let tell := fun (v : Availability) (u : State) (n : Notice) =>
            if v = (s.member m).availability then u else u.raiseNotice s.stations n
          (inUse = 0 → write (byteOf m) = .next
            ((tell .unavailable (s.setMember m ⟨false, .absent, ⟨false, false, false⟩, 0, .unavailable, .reset, .free, none⟩)
              ⟨.availability, 0, byteOf m, 1, 0, 0, 0⟩).respond p [0])) ∧
          (inUse ≠ 0 → (inUse ≠ 1 ∨ 1 < availability.toNat ∨ 2 < kind.toNat ∨
              (kind = 1 ∧ ¬(1 ≤ address.toNat ∧ address.toNat ≤ 1048575)) ∨ (kind = 2 ∧ 15 < toneGroup.toNat)) →
            write (byteOf m) = .next (s.respond p [4])) ∧
          (inUse = 1 → availability.toNat ≤ 1 → kind = 1 → 1 ≤ address.toNat → address.toNat ≤ 1048575 →
            (∃ k g, k ≠ m ∧ (s.member k).inUse = true ∧ (s.member k).pager = .digital (address.setWidth 20) g) →
            write (byteOf m) = .next (s.respond p [5])) ∧
          ∀ pager : Pager, inUse = 1 → availability.toNat ≤ 1 →
            (kind = 0 ∧ pager = .absent ∨
              kind = 1 ∧ 1 ≤ address.toNat ∧ address.toNat ≤ 1048575 ∧
                pager = .digital (address.setWidth 20) (groups.setWidth 12) ∧
                (∀ k g, k ≠ m → (s.member k).inUse = true → (s.member k).pager ≠ .digital (address.setWidth 20) g) ∨
              kind = 2 ∧ ∃ g : ToneGroup, toneGroup = byteOf g ∧ pager = .tone g) →
            write (byteOf m) = .next
              ((tell (if availability = 0 then .available else .unavailable)
                (s.setMember m
                  { inUse := true
                    pager := pager
                    quals := ⟨quals.getLsbD 0, quals.getLsbD 1, quals.getLsbD 2⟩
                    defaultEta := min 30 eta.toNat
                    availability := if availability = 0 then .available else .unavailable
                    source := .port p
                    engagement := .free
                    lastHeard := (s.member m).lastHeard })
                ⟨.availability, 0, byteOf m, availability, portCode p, 0, 0⟩).respond p [0])))

/-- No step gives an in-use Digital member the address 0 or the address of another (R4). -/
def Obligations.PagerAddressesStayDistinct : Prop :=
  ∀ s t : State, s.addressesDistinct → step s = .next t → t.addressesDistinct

/-! ### Plans and tone tables -/

/-- Write template, its checks in order, its clamps in order, and its effect: the template stored whole and written from then
on, steps and usage count unchanged (R23). -/
def Obligations.WriteTemplateClampsAndStores : Prop :=
  ∀ (s : State) (p : Port) (officer driver wearer total : Byte) (target : Half), s.takes p →
    let write := fun plan : Byte => exec (.writeTemplate p plan officer driver wearer total target) s
    ((s.port p).cls = .dispatch → ∀ plan, write plan = .next (s.respond p [3])) ∧
    ((s.port p).cls = .station →
      (∀ plan : Byte, 16 ≤ plan.toNat → write plan = .next (s.respond p [4])) ∧
      ∀ i : PlanIdx,
        (s.plans[i].usage ≠ 0 → write (byteOf i) = .next (s.respond p [5])) ∧
        (s.plans[i].usage = 0 → (1 < officer.toNat ∨ 2 < driver.toNat ∨ 4 < wearer.toNat) →
          write (byteOf i) = .next (s.respond p [4])) ∧
        (s.plans[i].usage = 0 → officer.toNat ≤ 1 → driver.toNat ≤ 2 → wearer.toNat ≤ 4 →
          let stored : Template :=
            { officer := officer.toNat
              driver := driver.toNat
              wearer := wearer.toNat
              total := max (if total = 0 then 1 else min 8 total.toNat) (officer.toNat + driver.toNat + wearer.toNat)
              target := max 60 (min 1800 target.toNat) }
          stored.written = true ∧
          write (byteOf i) = .next ((s.setPlan i { s.plans[i] with template := stored }).respond p [0])))

/-- Write plan step, its checks in order and its effect: Class; Range for an index; State for a plan in use; Range for a field
that the kind uses; State for a first step of a plan whose template is unwritten; and otherwise the one step replaced by the
fields its kind uses, the condition and the rate coded as R188 gives, N and the hold time clamped (R27, R28). -/
def Obligations.WritePlanStepStoresItsKind : Prop :=
  ∀ (s : State) (p : Port) (kind : Byte) (groups : Half) (count toneGroup condition : Byte) (hold : Half)
      (repeats rate : Byte), s.takes p →
    let write := fun plan step : Byte =>
      exec (.writePlanStep p plan step kind groups count toneGroup condition hold repeats rate) s
    let bad := 4 < kind.toNat ∨ (kind ≠ 0 ∧ (2 < condition.toNat ∨ 3 < repeats.toNat)) ∨
      ((kind = 1 ∨ kind = 2) ∧ 2 < rate.toNat) ∨ (kind = 1 ∧ groups.setWidth 12 = 0#12) ∨ (kind = 3 ∧ 15 < toneGroup.toNat)
    let rateCoded := fun r : CodeRate => rate = 0 ∧ r = .half ∨ rate = 1 ∧ r = .twoThirds ∨ rate = 2 ∧ r = .threeQuarters
    ((s.port p).cls = .dispatch → ∀ plan step, write plan step = .next (s.respond p [3])) ∧
    ((s.port p).cls = .station →
      (∀ plan step : Byte, 16 ≤ plan.toNat ∨ 8 ≤ step.toNat → write plan step = .next (s.respond p [4])) ∧
      ∀ (i : PlanIdx) (j : StepIdx),
        (s.plans[i].usage ≠ 0 → write (byteOf i) (byteOf j) = .next (s.respond p [5])) ∧
        (s.plans[i].usage = 0 → bad → write (byteOf i) (byteOf j) = .next (s.respond p [4])) ∧
        (s.plans[i].usage = 0 → ¬bad → j = 0 → kind ≠ 0 → s.plans[i].template.written = false →
          write (byteOf i) (byteOf j) = .next (s.respond p [5])) ∧
        ∀ x : PlanStep, s.plans[i].usage = 0 → (j = 0 → kind ≠ 0 → s.plans[i].template.written = true) →
          (kind = 0 ∧ x = .finish ∨
            ∃ cond a, (condition = 0 ∧ cond = .always ∨ condition = 1 ∧ cond = .ifShort ∨ condition = 2 ∧ cond = .ifShortOrLate) ∧
              repeats.toNat ≤ 3 ∧
              x = .act a cond (max 10 (min 900 hold.toNat)) repeats.toNat ∧
              (kind = 1 ∧ groups.setWidth 12 ≠ 0#12 ∧ (∃ r, rateCoded r ∧ a = .groupPage (groups.setWidth 12) r) ∨
                kind = 2 ∧ (∃ r, rateCoded r ∧ a = .shortfallPage (max 1 (min 16 count.toNat)) r) ∨
                kind = 3 ∧ (∃ g : ToneGroup, toneGroup = byteOf g ∧ a = .toneCall g) ∨
                kind = 4 ∧ a = .aidRequest)) →
          write (byteOf i) (byteOf j) = .next
            ((s.setPlan i { s.plans[i] with steps := s.plans[i].steps.set j x }).respond p [0]))

/-- No step takes a plan, a roster time, a callout's counters or a responder entry out of the ranges of R22, R24, R26, R33 and
R63; a runnable plan has a written template, a callout that holds or has exhausted its plan has an empty queue, and no set of
paged members holds one twice. Nor does a step leave a transmission queue with more than 16 items, or a callout with a code rate
that its step does not have (R33, R41, R46): this on the premise `serialsFresh`, which is R49's last sentence and which a model
without clock times cannot show (log entry 22). -/
def Obligations.TablesStayInRange : Prop :=
  (∀ s t : State, s.fieldsInRange → step s = .next t → t.fieldsInRange) ∧
    ∀ s t : State, s.queueLaw → step s = .next t → serialsFresh s t → t.queuesBounded16 ∧ t.ratesMatch

/-- No step parts a plan's usage count from the number of Active callouts running it, and they run a runnable plan (R29). -/
def Obligations.UsageCountsMatchActiveCallouts : Prop :=
  ∀ s t : State, s.usageExact → step s = .next t → t.usageExact

/-- The tone table writes: Class, Range for an index out of range, and otherwise the one entry set, a frequency stored as R147
gives. A stored frequency's increment is f x 65,536 / 96,000 rounded to the nearest integer, halves up, and lies between 2,048
and 20,480; an entry of 0 has the increment 0 (R146 to R148). -/
def Obligations.ToneTableWritesStore : Prop :=
  (∀ (s : State) (p : Port) (f : Half), s.takes p →
    ((s.port p).cls = .dispatch → ∀ i g a b : Byte,
      exec (.writeToneFrequency p i f) s = .next (s.respond p [3]) ∧
      exec (.writeTonePair p g a b) s = .next (s.respond p [3])) ∧
    ((s.port p).cls = .station →
      (∀ i : Byte, 32 ≤ i.toNat → exec (.writeToneFrequency p i f) s = .next (s.respond p [4])) ∧
      (∀ (i : ToneIdx) (stored : Half),
        (f = 0 ∧ stored = 0 ∨ 1 ≤ f.toNat ∧ f.toNat ≤ 2999 ∧ stored = 3000 ∨
          3000 ≤ f.toNat ∧ f.toNat ≤ 30000 ∧ stored = f ∨ 30001 ≤ f.toNat ∧ stored = 30000) →
        exec (.writeToneFrequency p (byteOf i) f) s = .next
          ({ s with tx := { s.tx with frequencies := s.tx.frequencies.set i stored } }.respond p [0])) ∧
      (∀ g a b : Byte, 16 ≤ g.toNat ∨ 32 ≤ a.toNat ∨ 32 ≤ b.toNat →
        exec (.writeTonePair p g a b) s = .next (s.respond p [4])) ∧
      ∀ (g : ToneGroup) (a b : ToneIdx),
        exec (.writeTonePair p (byteOf g) (byteOf a) (byteOf b)) s = .next
          ({ s with tx := { s.tx with pairs := s.tx.pairs.set g ⟨a, b⟩ } }.respond p [0]))) ∧
  toneIncrement 0 = 0 ∧
  ∀ f : Half, 3000 ≤ f.toNat → f.toNat ≤ 30000 →
    2048 ≤ (toneIncrement f).toNat ∧ (toneIncrement f).toNat ≤ 20480 ∧
    2 * 96000 * (toneIncrement f).toNat ≤ 2 * 65536 * f.toNat + 96000 ∧
    2 * 65536 * f.toNat + 96000 < 2 * 96000 * ((toneIncrement f).toNat + 1)

/-! ### Callouts -/

/-- A Raise that passes every test allocates the lowest-numbered Free slot: the record filled, the plan's count and the serial
counter moved on, a Raised notice to the interested ports, then the start of step 0, and Done with the number (R37, R38, R40,
R59). -/
def Obligations.RaiseAllocatesANewCallout : Prop :=
  ∀ (s : State) (p : Port) (reference : Quad) (i : PlanIdx) (priority cls : Byte) (location : Three) (k : SlotIdx),
    s.takes p → s.faultMode = false → priority.toNat ≤ 7 → location.toNat ≤ 262143 → reference ≠ 0 →
    (∀ j : SlotIdx, ∀ d ∈ s.slots[j], d.reference ≠ reference) →
    s.plans[i].runnable = true → s.plans[i].template.inRange → s.plans[i].template.written = true →
    s.slots[k] = none → (∀ j : SlotIdx, j < k → s.slots[j] ≠ none) →
    let x := s.plans[i].template
    let crewSeats := x.total - (x.officer + x.driver + x.wearer)
    let c : Callout :=
      { number := s.newNumber, reference := reference, cls := cls, location := location.setWidth 18,
        origins := ⟨p = .a, p = .b, p = .c⟩, priority := priority.setWidth 3, lifecycle := .active ⟨.queued, 0, none⟩,
        plan := i, step := 0, serial := 0, elapsed := 0, pagedGroups := 0, pagedMembers := [], tonesCalled := 0, queue := [],
        entries := [],
        crew :=
          { applied := ⟨x.officer, x.driver, x.wearer, crewSeats⟩
            target := x.target
            roleOrder := (assemble x []).roleOrder
            seats := List.replicate x.officer ⟨.officer, none⟩ ++ List.replicate x.driver ⟨.driver, none⟩ ++
              List.replicate x.wearer ⟨.wearer, none⟩ ++ List.replicate crewSeats ⟨.crew, none⟩
            missing := ⟨x.officer, x.driver, x.wearer, crewSeats⟩
            status := .short
            ready := none } }
    exec (.raise p reference (byteOf i) priority cls location) s = .next
      (((((({ s with serialCounter := if c.number = 65535 then 1 else c.number + 1 }).setPlan i
            { s.plans[i] with usage := s.plans[i].usage + 1 }).setSlot k (some c)).raiseNotice (s.interested c)
          ⟨.raised, c.number, 255, byteOf i, priority, portCode p, byteOf k⟩).startStep k 0 c).respond p
        [0, c.number.extractLsb' 8 8, c.number.extractLsb' 0 8])

/-- A Raise with the reference of an Active callout merges into it, keeps the higher priority and tells the interested ports as
they stand after the merge. Otherwise its tests refuse it in their order: Range, State, Range, Full (R38, R39). -/
def Obligations.RaiseMergesOrIsRefused : Prop :=
  ∀ (s : State) (p : Port) (reference : Quad) (plan priority cls : Byte) (location : Three),
    s.takes p → s.faultMode = false →
    let raise := exec (.raise p reference plan priority cls location) s
    (7 < priority.toNat ∨ 262143 < location.toNat → raise = .next (s.respond p [4])) ∧
    (priority.toNat ≤ 7 → location.toNat ≤ 262143 →
      (∀ (k : SlotIdx) (c : Callout), s.slots[k] = some c → c.reference = reference →
        (∀ j : SlotIdx, j < k → ∀ d ∈ s.slots[j], d.reference ≠ reference) →
        (c.isActive = false → raise = .next (s.respond p [5])) ∧
        (c.isActive = true →
          let c' := { c with
            origins := ⟨c.origins.a || p = .a, c.origins.b || p = .b, c.origins.c || p = .c⟩
            priority := if c.priority.toNat < priority.toNat then priority.setWidth 3 else c.priority }
          raise = .next (((s.setSlot k (some c')).raiseNotice (s.interested c')
            ⟨.merged, c.number, 255, byteOf c'.priority.toNat, portCode p, c'.origins.code, 0⟩).respond p
              [1, c.number.extractLsb' 8 8, c.number.extractLsb' 0 8]))) ∧
      ((∀ j : SlotIdx, ∀ d ∈ s.slots[j], d.reference ≠ reference) →
        ((reference = 0 ∨ 16 ≤ plan.toNat ∨ ∃ i : PlanIdx, plan = byteOf i ∧ s.plans[i].runnable = false) →
          raise = .next (s.respond p [4])) ∧
        (∀ i : PlanIdx, reference ≠ 0 → plan = byteOf i → s.plans[i].runnable = true → (∀ j : SlotIdx, s.slots[j] ≠ none) →
          raise = .next (s.respond p [6]))))

/-- An allocation takes the first number from the serial counter on whose tag no non-Free callout holds, passes over at most
seven, and never takes 0 (R37). The number after 65,535 is 1, and after any other number the one that follows it; the tag of a
number is the number modulo 64 (R37). -/
def Obligations.NumbersPassOverTagsInUse : Prop :=
  (∀ n : Half, nextNumber n = (if n = 65535 then 1 else n + 1) ∧ (tagOf n).toNat = n.toNat % 64) ∧
  ∀ (s : State) (k : SlotIdx), s.serialCounter ≠ 0 → s.slots[k] = none →
    s.newNumber ≠ 0 ∧ (∀ j : SlotIdx, ∀ d ∈ s.slots[j], tagOf d.number ≠ tagOf s.newNumber) ∧
    ∃ n, n ≤ 7 ∧ s.newNumber = nextNumber^[n] s.serialCounter ∧
      ∀ i, i < n → ∃ j : SlotIdx, ∃ d ∈ s.slots[j], tagOf d.number = tagOf (nextNumber^[i] s.serialCounter)

/-- No step leaves two non-Free callouts with the same tag or the same incident reference, or one numbered 0 (R37). -/
def Obligations.TagsAndReferencesStayDistinct : Prop :=
  ∀ s t : State, s.tagsDistinct → step s = .next t → t.tagsDistinct

/-- The start of a step: the serial counts on; past step 7 and at an End step the callout is Exhausted, with a Plan exhausted
notice when its crew is Short; a false condition starts the next step at once; a true one takes the step's action with the
step's repeats and rate. Always is true, If short is true of a Short crew, and If short-or-late of a Short or Late one (R25, R41,
R49). -/
def Obligations.StepStartFollowsThePlan : Prop :=
  ∀ (s : State) (k : SlotIdx) (c : Callout),
    let isTrue := fun (condition : Condition) (status : CrewStatus) =>
      condition = .always ∨ (condition = .ifShort ∧ status = .short) ∨
        (condition = .ifShortOrLate ∧ (status = .short ∨ status = .late))
    let exhausted := fun at' : StepIdx =>
      (if c.crew.status = .short then
          s.raiseNotice (s.interested c) ⟨.planExhausted, c.number, 255, byteOf c.crew.missing.officer,
            byteOf c.crew.missing.driver, byteOf c.crew.missing.wearer, byteOf c.crew.missing.crew⟩
        else s).setSlot k (some { c with serial := c.serial + 1, step := at', lifecycle := .active ⟨.exhausted, 0, none⟩ })
    s.startStep k 8 c = exhausted c.step ∧
    ∀ i : StepIdx,
      (s.plans[c.plan].steps[i] = .finish → s.startStep k i c = exhausted i) ∧
      ∀ action condition hold repeats, s.plans[c.plan].steps[i] = .act action condition hold repeats →
        let run : ActiveRun := ⟨.queued, repeats, action.rate⟩
        let c' := { c with serial := c.serial + 1, step := i }
        (isTrue condition c.crew.status → s.startStep k i c = s.takeAction k c' run action hold) ∧
        (¬isTrue condition c.crew.status →
          s.startStep k i c = s.startStep k (i.val + 1) { c' with lifecycle := .active run })

/-- What each action enqueues and records, at the callout's rate and serial: a Group page its groups in ascending order, a Tone
call its tone group, an Aid request nothing but its notice, a Shortfall page the members selected, each recorded as paged once,
after those paged before. The callout is then Queued, or Holding when nothing was enqueued (R41 to R45). -/
def Obligations.StepActionsEnqueueTheirItems : Prop :=
  ∀ (s : State) (k : SlotIdx) (c : Callout) (progress : Progress) (repeats hold : Nat),
    let item := fun kind => (⟨kind, c.number, c.serial⟩ : TxItem)
    let holding : Progress := .holding (min 4095 (c.elapsed + hold)) false
    (∀ (groups : BitVec 12) (r rate : CodeRate), groups ≠ 0 →
      ∃ l : List GroupIdx, l.Pairwise (· < ·) ∧ (∀ g : GroupIdx, g ∈ l ↔ groups.getLsbD g = true) ∧
        s.takeAction k c ⟨progress, repeats, some rate⟩ (.groupPage groups r) hold = s.setSlot k (some { c with
          pagedGroups := c.pagedGroups ||| groups
          queue := c.queue ++ l.map fun g => item (.groupAlert g rate)
          lifecycle := .active ⟨.queued, repeats, some rate⟩ })) ∧
    (∀ g : ToneGroup, s.takeAction k c ⟨progress, repeats, none⟩ (.toneCall g) hold = s.setSlot k (some { c with
      tonesCalled := c.tonesCalled ||| (1#16 <<< g.val)
      queue := c.queue ++ [item (.toneCall g)]
      lifecycle := .active ⟨.queued, repeats, none⟩ })) ∧
    s.takeAction k c ⟨progress, repeats, none⟩ .aidRequest hold =
      (s.raiseNotice (s.interested c) ⟨.aidNeeded, c.number, 255, byteOf c.crew.missing.officer,
        byteOf c.crew.missing.driver, byteOf c.crew.missing.wearer, byteOf c.crew.missing.crew⟩).setSlot k (some { c with
          lifecycle := .active ⟨holding, repeats, none⟩ }) ∧
    ∀ (n : Nat) (r rate : CodeRate), ∃ paged : List MemberIdx,
      (∀ m, m ∈ paged ↔ m ∈ c.pagedMembers ∨ m ∈ s.shortfall c n) ∧ (c.pagedMembers.Nodup → paged.Nodup) ∧
      c.pagedMembers <+: paged ∧
      s.takeAction k c ⟨progress, repeats, some rate⟩ (.shortfallPage n r) hold = s.setSlot k (some { c with
        pagedMembers := paged
        queue := c.queue ++ (s.shortfall c n).map fun m => item (.memberAlert m rate)
        lifecycle := .active ⟨if s.shortfall c n = [] then holding else .queued, repeats, some rate⟩ })

/-- A shortfall selection of at most `n` members: each eligible, taken once, in order of default ETA and then of index, as many
as there are up to `n`, and none passed over that stands before one taken (R45). -/
def Obligations.ShortfallPageSelectsInOrder : Prop :=
  ∀ (s : State) (c : Callout) (n : Nat),
    let before := fun x y : MemberIdx => (s.member x).defaultEta < (s.member y).defaultEta ∨
      ((s.member x).defaultEta = (s.member y).defaultEta ∧ x < y)
    let missing := c.crew.missing
    let useful := fun q : Quals =>
      (0 < missing.officer ∧ q.officer = true ∨ 0 < missing.driver ∧ q.driver = true ∨ 0 < missing.wearer ∧ q.wearer = true) ∨
        (missing.officer = 0 ∧ missing.driver = 0 ∧ missing.wearer = 0 ∧ 0 < missing.crew)
    let eligible := fun m : MemberIdx => (s.member m).inUse = true ∧ (∃ a g, (s.member m).pager = .digital a g) ∧
      (s.member m).availability = .available ∧ (s.member m).engagement = .free ∧ (∀ e ∈ c.entries, e.member ≠ m) ∧
      useful (s.member m).quals
    (s.shortfall c n).Pairwise before ∧ (∀ m ∈ s.shortfall c n, eligible m) ∧ (s.shortfall c n).length ≤ n ∧
      ∀ m, eligible m → m ∉ s.shortfall c n → (s.shortfall c n).length = n ∧ ∀ x ∈ s.shortfall c n, before x m

/-- An Escalate moves the callout onto a runnable plan in the order of R51: queue and deadline gone, the usage counts moved, the
serial on, the crew evaluated under the new template with its notice, then step 0 started; everything else of the callout is
kept. The evaluation: its candidates are the Attending and Arrived entries, in list order, each with the stored estimate and the
qualifications that the roster holds (R91); the seat of an entry is the role of the seat that holds its member, Standby for a
candidate without one, and none for any other entry (R100); a seated candidate is then Assigned to the callout, one on Standby
Responding, and no other member's engagement changes (R101); and a Crew status notice tells of a changed status, crew-ready
estimate or set of seated members (R102). A candidate without a stored estimate, which no run reaches, counts as 4,095 (log entry
14). -/
def Obligations.EscalateRestartsThePlan : Prop :=
  (∀ (s : State) (k : SlotIdx) (c : Callout),
    let counts := fun e : Entry => e.answer = .attending ∨ e.answer = .arrived
    let crew := assemble s.plans[c.plan].template ((c.entries.filter fun e => counts e).map fun e =>
      { member := e.member, estimate := e.estimate.getD 4095, quals := (s.member e.member).quals })
    let seatOf := fun e : Entry =>
      if counts e then
        match crew.seats.find? fun x => x.member = some e.member with
        | some x => Seat.seated x.role
        | none => .standby
      else .unseated
    let c' := s.evaluated c
    c'.crew = crew ∧ { c' with crew := c.crew, entries := c.entries } = c ∧
    c'.entries = (c.entries.map fun e => { e with seat := seatOf e }) ∧
    (let t := s.settle k c'
     t.slots = s.slots.set k (some c') ∧ { t with slots := s.slots, roster := s.roster } = s ∧
     (∀ m, { t.member m with engagement := (s.member m).engagement } = s.member m) ∧
     (∀ e ∈ c'.entries, ∀ role, e.seat = .seated role → (t.member e.member).engagement = .assigned c.number) ∧
     (∀ e ∈ c'.entries, e.seat = .standby → (t.member e.member).engagement = .responding c.number) ∧
     ∀ m, (∀ e ∈ c.entries, counts e → e.member ≠ m) → t.member m = s.member m) ∧
    ∀ old : Crew,
      let same := old.status = c.crew.status ∧ old.ready = c.crew.ready ∧
        ∀ m, (∃ x ∈ old.seats, x.member = some m) ↔ ∃ x ∈ c.crew.seats, x.member = some m
      (same → s.raiseCrewStatus old c = s) ∧
      (¬same → s.raiseCrewStatus old c = s.raiseNotice (s.interested c)
        ⟨.crewStatus, c.number, 255, c.crew.status.code, byteOf (c.crew.seats.filterMap (·.member)).length,
          (BitVec.ofNat 16 (c.crew.ready.getD 0)).extractLsb' 8 8, (BitVec.ofNat 16 (c.crew.ready.getD 0)).extractLsb' 0 8⟩)) ∧
  ∀ (s : State) (p : Port) (k : SlotIdx) (c : Callout) (i : PlanIdx),
    s.takes p → s.lookup c.number = some (k, c) → ((s.port p).cls = .station ∨ c.origins.has p = true) → c.isActive = true →
    s.plans[i].runnable = true →
    let moved := if i = c.plan then s else
      (s.setPlan c.plan { s.plans[c.plan] with usage := s.plans[c.plan].usage - 1 }).setPlan i
        { s.plans[i] with usage := s.plans[i].usage + 1 }
    let c' := moved.evaluated { c with serial := c.serial + 1, queue := [], plan := i }
    exec (.escalate p c.number (byteOf i)) s = .next
      ((((moved.settle k c').raiseCrewStatus c.crew c').startStep k 0 c').respond p [0])

/-- A Cancel frees the callout's members, empties its queue and lowers its plan's count; with the channel Running or Suspended
two Stand-downs are enqueued, and otherwise the slot is freed with its notice (R53). -/
def Obligations.CancelStandsDownOrFrees : Prop :=
  ∀ (s : State) (p : Port) (k : SlotIdx) (c : Callout),
    s.takes p → s.lookup c.number = some (k, c) → ((s.port p).cls = .station ∨ c.origins.has p = true) → c.isActive = true →
    ∃ t, exec (.cancel p c.number) s = .next t ∧
      (∀ m, t.member m =
        if (s.member m).engagement = .responding c.number ∨ (s.member m).engagement = .assigned c.number then
          { s.member m with engagement := .free }
        else s.member m) ∧
      t.plans = s.plans.set c.plan { s.plans[c.plan] with usage := s.plans[c.plan].usage - 1 } ∧
      (s.channel.state = .running ∨ s.channel.state = .suspended →
        t.slots = s.slots.set k (some { c with
          serial := c.serial + 1
          queue := [⟨.standDown, c.number, c.serial + 1⟩, ⟨.standDown, c.number, c.serial + 1⟩]
          lifecycle := .standingDown 0 }) ∧
        t.ports = (s.respond p [0]).ports) ∧
      (s.channel.state = .stopped ∨ s.channel.state = .stopping →
        t.slots = s.slots.set k none ∧
        t.ports = ((s.raiseNotice (s.interested c) ⟨.freed, c.number, 255, 2, 0, 0, 0⟩).respond p [0]).ports) ∧
      { t with roster := s.roster, plans := s.plans, slots := s.slots, ports := s.ports } = s

/-- Mark departed freezes the crew, frees the Responding members and tells the interested ports; Release frees the Assigned
members and the slot and tells them (R55, R56). -/
def Obligations.DepartureFreezesAndReleaseFrees : Prop :=
  ∀ (s : State) (p : Port) (k : SlotIdx) (c : Callout), s.takes p → s.lookup c.number = some (k, c) →
    ((s.port p).cls = .station → c.isActive = true →
      ∃ t, exec (.markDeparted p c.number) s = .next t ∧
        (∀ m, t.member m =
          if (s.member m).engagement = .responding c.number then { s.member m with engagement := .free } else s.member m) ∧
        t.plans = s.plans.set c.plan { s.plans[c.plan] with usage := s.plans[c.plan].usage - 1 } ∧
        t.slots = s.slots.set k (some { c with
          serial := c.serial + 1
          queue := if s.channel.state = .running ∨ s.channel.state = .suspended then
            [⟨.closing, c.number, c.serial + 1⟩] else []
          lifecycle := .departed }) ∧
        t.ports = ((s.raiseNotice (s.interested c)
          ⟨.departed, c.number, 255, c.crew.status.code, byteOf (c.crew.seats.filterMap (·.member)).length,
            (BitVec.ofNat 16 (c.crew.ready.getD 0)).extractLsb' 8 8, (BitVec.ofNat 16 (c.crew.ready.getD 0)).extractLsb' 0 8⟩).respond
          p [0]).ports ∧
        { t with roster := s.roster, plans := s.plans, slots := s.slots, ports := s.ports } = s) ∧
    (((s.port p).cls = .station ∨ c.origins.has p = true) → c.lifecycle = .departed →
      ∃ t, exec (.release p c.number) s = .next t ∧
        (∀ m, t.member m =
          if (s.member m).engagement = .assigned c.number then { s.member m with engagement := .free } else s.member m) ∧
        t.slots = s.slots.set k none ∧
        t.ports = ((s.raiseNotice (s.interested c) ⟨.freed, c.number, 255, 0, 0, 0, 0⟩).respond p [0]).ports ∧
        { t with roster := s.roster, slots := s.slots, ports := s.ports } = s)

/-- Escalate, Cancel, Mark departed and Release are refused in the order of their checks: State for a number that names no
callout, Class for a port that is neither Station nor an origin, State for the wrong lifecycle, and for Escalate Range for a plan
that is not runnable (R50, R53, R55, R56). A plan is runnable when its step 0 is not End (R20). -/
def Obligations.LifecycleRequestsAreRefusedInOrder : Prop :=
  (∀ c : Callout, c.isActive = true ↔ ∃ run, c.lifecycle = .active run) ∧
  (∀ x : Plan, x.runnable = true ↔ x.steps[0] ≠ .finish) ∧
  ∀ (s : State) (p : Port) (n : Half) (plan : Byte), s.takes p →
    (s.lookup n = none →
      exec (.escalate p n plan) s = .next (s.respond p [5]) ∧ exec (.cancel p n) s = .next (s.respond p [5]) ∧
      exec (.release p n) s = .next (s.respond p [5]) ∧
      ((s.port p).cls = .station → exec (.markDeparted p n) s = .next (s.respond p [5]))) ∧
    ∀ k c, s.lookup n = some (k, c) →
      ((s.port p).cls = .dispatch → c.origins.has p = false →
        exec (.escalate p n plan) s = .next (s.respond p [3]) ∧ exec (.cancel p n) s = .next (s.respond p [3]) ∧
        exec (.release p n) s = .next (s.respond p [3])) ∧
      ((s.port p).cls = .station ∨ c.origins.has p = true →
        (c.isActive = false →
          exec (.escalate p n plan) s = .next (s.respond p [5]) ∧ exec (.cancel p n) s = .next (s.respond p [5])) ∧
        (c.lifecycle ≠ .departed → exec (.release p n) s = .next (s.respond p [5])) ∧
        (c.isActive = true → (16 ≤ plan.toNat ∨ ∃ i : PlanIdx, plan = byteOf i ∧ s.plans[i].runnable = false) →
          exec (.escalate p n plan) s = .next (s.respond p [4]))) ∧
      ((s.port p).cls = .station → c.isActive = false → exec (.markDeparted p n) s = .next (s.respond p [5]))

/-- The tick occurs when the phase has completed a second. At a tick every callout's elapsed time advances by 1 up to 4,095, a
hold whose deadline it has reached is due, the fallback ticks count on the internal clock up to 65,535, and the phase starts
again; nothing else changes (R48, R183, R184). That a hold becomes due for a HOLD_EXPIRY that follows is the model's form of R48
(log entry 4). -/
def Obligations.TickAdvancesElapsedTimes : Prop :=
  ∀ s : State, s.sup.held = false → 9830400 ≤ s.sup.tickPhase → ∃ t, exec .oneSecondTick s = .next t ∧
    (∀ k : SlotIdx, s.slots[k] = none → t.slots[k] = none) ∧
    (∀ (k : SlotIdx) (c : Callout), s.slots[k] = some c →
      t.slots[k] = some { c with
        elapsed := min 4095 (c.elapsed + 1)
        lifecycle := match c.lifecycle with
          | .active ⟨.holding deadline due, repeats, rate⟩ =>
            .active ⟨.holding deadline (due || deadline ≤ min 4095 (c.elapsed + 1)), repeats, rate⟩
          | l => l }) ∧
    t.sup = { s.sup with
      tickPhase := 0
      fallbackTicks := if s.sup.clock = .internal then min 65535 (s.sup.fallbackTicks + 1) else s.sup.fallbackTicks } ∧
    { t with slots := s.slots, sup := s.sup } = s

/-- The expiry of the hold of the lowest slot whose hold has run out: with repeats left and its condition true the step's action
is taken again, one repeat fewer and one rate stronger, under the next serial; otherwise the next step starts (R25, R26, R48,
R49). That a hold which has run out is marked due by the tick and expires by a command of its own is the model's form (log entry
4). -/
def Obligations.HoldExpiryRepeatsOrMovesOn : Prop :=
  ∀ (s : State) (k : SlotIdx) (c : Callout) (deadline repeats : Nat) (rate : Option CodeRate),
    s.sup.held = false → s.slots[k] = some c → c.lifecycle = .active ⟨.holding deadline true, repeats, rate⟩ →
    (∀ j : SlotIdx, j < k → ∀ d ∈ s.slots[j], ∀ ended n r, d.lifecycle ≠ .active ⟨.holding ended true, n, r⟩) →
    let isTrue := fun (condition : Condition) (status : CrewStatus) =>
      condition = .always ∨ (condition = .ifShort ∧ status = .short) ∨
        (condition = .ifShortOrLate ∧ (status = .short ∨ status = .late))
    (∀ action condition hold n, s.plans[c.plan].steps[c.step] = .act action condition hold n →
      (0 < repeats → isTrue condition c.crew.status →
        exec .holdExpiry s = .next (s.takeAction k { c with serial := c.serial + 1 }
          ⟨.holding deadline true, repeats - 1, match rate with
            | some .threeQuarters => some .twoThirds
            | some _ => some .half
            | none => none⟩ action hold)) ∧
      (repeats = 0 ∨ ¬isTrue condition c.crew.status →
        exec .holdExpiry s = .next (s.startStep k (c.step.val + 1) c)))

/-! ### Replies -/

/-- The three ways a reply arrives. Record reply and Mark arrived pass their checks in order and are handled with the port as
source; a repeated marking is answered Done and changes nothing. The oldest hand-off of the receiver is dropped when its callout
is not Active, when the member was not paged or is Arrived, and is handled with source Radio otherwise (R67 to R71, R76). That the
hand-offs stand in a list is the model's form (log entry 9), and that In use is not tested again its reading (log entry 18). -/
def Obligations.RepliesAreTakenFromEverySource : Prop :=
  ∀ s : State,
    (∀ (p : Port) (n : Half), s.takesStation p →
      (∀ member answer eta : Byte, 96 ≤ member.toNat ∨ 2 ≤ answer.toNat →
        exec (.recordReply p member n answer eta) s = .next (s.respond p [4])) ∧
      (∀ member : Byte, 96 ≤ member.toNat → exec (.markArrived p member n) s = .next (s.respond p [4])) ∧
      ∀ (m : MemberIdx) (answer eta : Byte), answer.toNat < 2 →
        ((s.member m).inUse = false ∨ s.lookup n = none →
          exec (.recordReply p (byteOf m) n answer eta) s = .next (s.respond p [5]) ∧
          exec (.markArrived p (byteOf m) n) s = .next (s.respond p [5])) ∧
        ∀ k c, (s.member m).inUse = true → s.lookup n = some (k, c) →
          let arrived := ∃ e ∈ c.entries, e.member = m ∧ e.answer = .arrived
          (c.isActive = false →
            exec (.recordReply p (byteOf m) n answer eta) s = .next (s.respond p [5]) ∧
            exec (.markArrived p (byteOf m) n) s = .next (s.respond p [5])) ∧
          (c.isActive = true → arrived →
            (answer = 0 → exec (.recordReply p (byteOf m) n answer eta) s = .next (s.respond p [5])) ∧
            exec (.markArrived p (byteOf m) n) s = .next (s.respond p [0])) ∧
          (c.isActive = true → answer = 1 ∨ ¬arrived →
            let r : Reply := ⟨m, if answer = 0 then .attending else .declined,
              if eta.getLsbD 7 then some (min 30 (eta.toNat % 128)) else none, .port p⟩
            exec (.recordReply p (byteOf m) n answer eta) s = .next
              ((s.handleReply k c r).1.respond p [(s.handleReply k c r).2.code])) ∧
          (c.isActive = true → ¬arrived →
            let r : Reply := ⟨m, .arrived, none, .port p⟩
            exec (.markArrived p (byteOf m) n) s = .next
              ((s.handleReply k c r).1.respond p [(s.handleReply k c r).2.code]))) ∧
    ∀ (h : HandOff) (rest : List HandOff), s.sup.held = false → s.handOffs = h :: rest →
      let s' := { s with handOffs := rest }
      (s.lookup h.callout = none → exec .calloutReply s = .next s') ∧
      ∀ k c, s.lookup h.callout = some (k, c) →
        let dropped := c.isActive = false ∨ (∃ e ∈ c.entries, e.member = h.member ∧ e.answer = .arrived) ∨
          ((∀ address groups, (s.member h.member).pager = .digital address groups → groups &&& c.pagedGroups = 0) ∧
            h.member ∉ c.pagedMembers)
        (dropped → exec .calloutReply s = .next s') ∧
        (¬dropped → exec .calloutReply s = .next (s'.handleReply k c ⟨h.member, h.answer, h.eta, .radio⟩).1)

/-- What becomes of a reply to an Active callout whose list has room. An Attending or Arrived answer of a member that no other
callout holds is recorded and engages the member; held by an Active callout of lower priority, the member is withdrawn from it
first; held by any other, the answer is recorded as Declined with the mark and the engagement stays. A Declined answer is
recorded with the mark clear and frees a member engaged to the callout. An entry is updated in its place with its first reply
time kept, or appended at the tail, in a full list after the Declined entry nearest the head has left it; every other entry
stays as it was but for the seat that the evaluation gives it. The evaluation takes as candidates the Attending and Arrived
entries, with their stored estimates and the roster's qualifications, and seats an entry as the seat that holds its member, on
Standby for an unseated candidate, none otherwise; the seated candidates are Assigned and those on Standby Responding (R91,
R100, R101; a candidate without an estimate, which no run reaches: log entry 14). The notices stand in the order of R80: those
of a withdrawal, the Reply notice, a Crew status notice when status, estimate or seated members change. A Reply notice goes to
the Station-class ports, a Crew status notice to those and to the origins of its callout (R59, R65, R72 to R80, R100 to R102). -/
def Obligations.ReplyIsRecordedByTheEngagementRule : Prop :=
  ∀ (s : State) (k : SlotIdx) (c : Callout) (r : Reply) (a : Answer) (mark : Bool) (moved : Option (SlotIdx × Callout))
      (listed : List Entry),
    s.engagementLaw → s.slots[k] = some c → c.isActive = true → r.answer ≠ .withdrawn →
    let held := (s.member r.member).engagement
    let elsewhere := fun (kd : SlotIdx) (d : Callout) =>
      s.slots[kd] = some d ∧ held.callout = some d.number ∧ d.number ≠ c.number
    (a = r.answer ∧ mark = false ∧ moved = none ∧ (r.answer = .declined ∨ ∀ d, held.callout = some d → d = c.number) ∨
      a = r.answer ∧ mark = false ∧ r.answer ≠ .declined ∧
        (∃ kd d, moved = some (kd, d) ∧ elsewhere kd d ∧ d.isActive = true ∧ d.priority.toNat < c.priority.toNat) ∨
      a = .declined ∧ mark = true ∧ moved = none ∧ r.answer ≠ .declined ∧
        ∃ kd d, elsewhere kd d ∧ (d.isActive = false ∨ c.priority.toNat ≤ d.priority.toNat)) →
    let eta := if a = .attending then r.eta else none
    let entry := fun first : Nat => ({
      member := r.member, answer := a, eta := eta, source := r.source, first := first, latest := c.elapsed
      estimate := match a with
        | .attending => some (min 4095 (c.elapsed + 60 * eta.getD (s.member r.member).defaultEta))
        | .arrived => some c.elapsed
        | _ => none
      mark := mark, seat := .unseated } : Entry)
    ((∃ e ∈ c.entries, e.member = r.member) ∧
        listed = (c.entries.map fun e => if e.member = r.member then entry e.first else e) ∨
      (∀ e ∈ c.entries, e.member ≠ r.member) ∧ c.entries.length < 24 ∧ listed = c.entries ++ [entry c.elapsed] ∨
      (∀ e ∈ c.entries, e.member ≠ r.member) ∧ c.entries.length = 24 ∧ a ≠ .declined ∧
        ∃ before e after, c.entries = before ++ e :: after ∧ (∀ x ∈ before, x.answer ≠ .declined) ∧ e.answer = .declined ∧
          listed = before ++ after ++ [entry c.elapsed]) →
    let t := (s.handleReply k c r).1
    let evaluated := fun (x : Callout) (l : List Entry) =>
      let counts := fun e : Entry => e.answer = .attending ∨ e.answer = .arrived
      let crew := assemble s.plans[x.plan].template ((l.filter fun e => counts e).map fun e =>
        { member := e.member, estimate := e.estimate.getD 4095, quals := (s.member e.member).quals })
      let seatOf := fun e : Entry =>
        if counts e then
          match crew.seats.find? fun y => y.member = some e.member with
          | some y => Seat.seated y.role
          | none => .standby
        else .unseated
      { x with crew := crew, entries := l.map fun e => { e with seat := seatOf e } }
    let left := fun d : Callout =>
      d.entries.map fun e => if e.member = r.member then { e with answer := .withdrawn, eta := none, estimate := none } else e
    let place := fun (l : List Entry) => byteOf (l.findIdx fun x => x.member = r.member)
    let crewTold := fun x y : Callout =>
      if x.crew.status = y.crew.status ∧ x.crew.ready = y.crew.ready ∧
          ∀ m : MemberIdx, (∃ seat ∈ x.crew.seats, seat.member = some m) ↔ ∃ seat ∈ y.crew.seats, seat.member = some m then []
      else [(⟨.crewStatus, y.number, 255, y.crew.status.code, byteOf (y.crew.seats.filterMap (·.member)).length,
        (BitVec.ofNat 16 (y.crew.ready.getD 0)).extractLsb' 8 8,
        (BitVec.ofNat 16 (y.crew.ready.getD 0)).extractLsb' 0 8⟩ : Notice)]
    (s.handleReply k c r).2 = .done ∧ t.slots[k] = some (evaluated c listed) ∧
    (∀ j : SlotIdx, j ≠ k → (∀ d, moved ≠ some (j, d)) → t.slots[j] = s.slots[j]) ∧
    (∀ kd d, moved = some (kd, d) → t.slots[kd] = some (evaluated d (left d))) ∧
    (a = .attending ∨ a = .arrived →
      (t.member r.member).engagement = .responding c.number ∨ (t.member r.member).engagement = .assigned c.number) ∧
    (a = .declined →
      (t.member r.member).engagement = if mark = false ∧ held.callout = some c.number then .free else held) ∧
    (∀ x, x = evaluated c listed ∨ (∃ kd d, moved = some (kd, d) ∧ x = evaluated d (left d)) → ∀ e ∈ x.entries,
      (∀ role, e.seat = .seated role → (t.member e.member).engagement = .assigned x.number) ∧
      (e.seat = .standby → (t.member e.member).engagement = .responding x.number)) ∧
    (∀ m, { t.member m with engagement := (s.member m).engagement } = s.member m ∧
      (m ≠ r.member → (t.member m).engagement.callout = (s.member m).engagement.callout)) ∧
    (∀ q, s.testing = false → (s.port q).queue.length ≤ 28 →
      let station := (s.port q).cls = .station
      (t.port q).queue = (s.port q).queue ++
        (match moved with
          | none => []
          | some (_, d) =>
            (if station then
              [(⟨.reply, d.number, byteOf r.member,
                markedAnswer .withdrawn (d.entries.any fun e => e.member = r.member && e.mark), 255, r.source.code,
                place d.entries⟩ : Notice)] else []) ++
            (if station ∨ d.origins.has q = true then crewTold d (evaluated d (left d)) else [])) ++
        (if station then
          [(⟨.reply, c.number, byteOf r.member, markedAnswer a mark, byteOf (eta.getD 255), r.source.code, place listed⟩ : Notice)]
        else []) ++
        (if station ∨ c.origins.has q = true then crewTold c (evaluated c listed) else [])) ∧
    (∀ q, (s.port q).cls = .dispatch → ∀ n ∈ (t.port q).queue, n ∈ (s.port q).queue ∨ n.kind = .crewStatus) ∧
    { t with roster := s.roster, slots := s.slots, ports := s.ports } = s

/-- Room for a reply: an entry is updated; a list of fewer than 24 takes a new one; a full list loses the Declined entry nearest
its head for an Attending or Arrived answer; and otherwise the reply is dropped and answered Full, with a List full notice
unless the answer to record is Declined (R78, R81). The answer to record is Declined for a member that a callout of no lower
priority, or one that is not Active, holds, and the answer received otherwise (R72, R73); an engagement that names no callout,
which no run reaches, counts as none (log entry 14). -/
def Obligations.FullListEvictsTheOldestDeclined : Prop :=
  (∀ (l : List Entry) (m : MemberIdx) (a : Answer),
    ((∃ e ∈ l, e.member = m) → roomFor l m a = .update) ∧
    ((∀ e ∈ l, e.member ≠ m) →
      (l.length < 24 → roomFor l m a = .append) ∧
      (l.length = 24 → a = .declined → roomFor l m a = .noRoom false) ∧
      (l.length = 24 → a ≠ .declined → (∃ e ∈ l, e.answer = .declined) → roomFor l m a = .evict) ∧
      (l.length = 24 → a ≠ .declined → (∀ e ∈ l, e.answer ≠ .declined) → roomFor l m a = .noRoom true))) ∧
  (∀ (s : State) (c : Callout) (r : Reply), s.tagsDistinct →
    let elsewhere := ∃ (k : SlotIdx) (d : Callout), s.slots[k] = some d ∧ (s.member r.member).engagement.callout = some d.number ∧
      d.number ≠ c.number ∧ (d.isActive = false ∨ c.priority.toNat ≤ d.priority.toNat)
    (elsewhere → (s.weigh c r).answer r = .declined) ∧ (¬elsewhere → (s.weigh c r).answer r = r.answer)) ∧
  (∀ (before after : List Entry) (e : Entry), (∀ x ∈ before, x.answer ≠ .declined) → e.answer = .declined →
    evictOldest (before ++ e :: after) = before ++ after) ∧
  ∀ (s : State) (k : SlotIdx) (c : Callout) (r : Reply), c.entries.length = 24 → (∀ e ∈ c.entries, e.member ≠ r.member) →
    let a := (s.weigh c r).answer r
    (a = .declined → s.handleReply k c r = (s, .full)) ∧
    (a ≠ .declined → (∀ e ∈ c.entries, e.answer ≠ .declined) →
      s.handleReply k c r =
        (s.raiseNotice s.stations ⟨.listFull, c.number, byteOf r.member, a.code, r.source.code, 0, 0⟩, .full))

/-- No step gives a responder list a 25th entry or the same member twice (R64). -/
def Obligations.ResponderListsStayBounded : Prop :=
  ∀ s t : State, s.listsBounded → step s = .next t → t.listsBounded

/-- No step breaks the engagement law: an engagement names a callout whose list holds an Attending or Arrived entry for the
member, and in an Active callout exactly the seated candidates are Assigned and the Standby ones Responding (R66, R101), over
the laws of R37 and R64 and the answers that a reply on its way carries (R67). -/
def Obligations.EngagementFollowsTheLists : Prop :=
  ∀ s t : State, s.engagementLaw → step s = .next t → t.engagementLaw

/-! ### The crew builder -/

/-- A crew of distinct candidates under a written template has one seat for each of the template, grouped by role; no member
holds two; every seated member is a candidate, with the qualification of an Officer, Driver or Wearer seat it fills (R86,
R98). -/
def Obligations.CrewSeatsAreQualifiedAndDistinct : Prop :=
  ∀ (x : Template) (l : List Candidate), x.inRange → x.written = true → (l.map (·.member)).Nodup →
    let w := assemble x l
    w.seats.map (·.role) = List.replicate x.officer .officer ++ List.replicate x.driver .driver ++
      List.replicate x.wearer .wearer ++ List.replicate (x.total - (x.officer + x.driver + x.wearer)) .crew ∧
    w.seats.length = x.total ∧ w.seated = w.seats.filterMap (·.member) ∧ w.seated.Nodup ∧ w.seated.length ≤ x.total ∧
    ∀ seat ∈ w.seats, ∀ m ∈ seat.member, ∃ c ∈ l, c.member = m ∧ (seat.role = .officer → c.quals.officer = true) ∧
      (seat.role = .driver → c.quals.driver = true) ∧ (seat.role = .wearer → c.quals.wearer = true)

/-- The missing counts are the unfilled seats of each kind. The crew-ready estimate is present exactly when none is missing, and
is then the largest estimate of a seated candidate; the status is Short without it, Ready when it is no greater than the
target, and Late otherwise (R97, R99). -/
def Obligations.CrewStatusFollowsTheEstimates : Prop :=
  ∀ (x : Template) (l : List Candidate), x.inRange → x.written = true → (l.map (·.member)).Nodup →
    (∀ c ∈ l, c.estimate ≤ 4095) →
    let w := assemble x l
    let open' := fun role : SeatRole => w.seats.countP fun seat => seat.role = role && seat.member.isNone
    w.missing = ⟨open' .officer, open' .driver, open' .wearer, open' .crew⟩ ∧ w.target = x.target ∧
    (w.ready ≠ none ↔ ∀ seat ∈ w.seats, seat.member ≠ none) ∧
    (w.ready = none → w.status = .short) ∧
    ∀ n, w.ready = some n →
      n ≤ 4095 ∧ (∃ c ∈ l, c.member ∈ w.seated ∧ c.estimate = n) ∧ (∀ c ∈ l, c.member ∈ w.seated → c.estimate ≤ n) ∧
      w.status = if n ≤ x.target then .ready else .late

/-- An evaluation reads the candidates' estimates and qualifications and not their places in the list: two lists of the same
distinct candidates give the same assignment (R88, R91, R106). -/
def Obligations.CrewIgnoresTheOrderOfTheList : Prop :=
  ∀ (x : Template) (l l' : List Candidate), l.Perm l' → (l.map (·.member)).Nodup → assemble x l = assemble x l'

/-- The role order holds the roles with a seat, by slack and then Officer, Driver, Wearer. The role seats are filled one at a
time, role after role in that order. Each takes the unpicked holder that ranks first, by estimate and then by member index,
among those not protected, and among all when all are protected; a holder is protected while another role that it holds has no
more unpicked holders than unfilled seats. A role gives way to the next when its seats are filled or no unpicked candidate holds
it. The Crew seats take the candidates left, in rank order. While a role misses a seat, each of its holders is seated in a role
seat; while a Crew seat is missing, every candidate is seated (R86, R91 to R96). -/
def Obligations.RolesAreFilledWhileHoldersRemain : Prop :=
  (∀ q : Quals, [Role.officer, .driver, .wearer].map q.has = [q.officer, q.driver, q.wearer]) ∧
  (∀ x : Template, [Role.officer, .driver, .wearer].map x.seatsOf = [x.officer, x.driver, x.wearer]) ∧
  ∀ (x : Template) (l : List Candidate), x.inRange → x.written = true → (l.map (·.member)).Nodup →
    let w := assemble x l
    let slackOf := fun r : Role => (l.countP fun c => c.quals.has r : Int) - x.seatsOf r
    let before := fun c d : Candidate => c.estimate < d.estimate ∨ (c.estimate = d.estimate ∧ c.member < d.member)
    (∀ r : Role, r ∈ w.roleOrder ↔ 1 ≤ x.seatsOf r) ∧
    w.roleOrder.Pairwise (fun r q => slackOf r < slackOf q ∨ (slackOf r = slackOf q ∧ r.code.toNat < q.code.toNat)) ∧
    (∀ c ∈ l, (0 < w.missing.officer ∧ c.quals.officer = true ∨ 0 < w.missing.driver ∧ c.quals.driver = true ∨
        0 < w.missing.wearer ∧ c.quals.wearer = true) →
      ∃ seat ∈ w.seats, seat.member = some c.member ∧ seat.role ≠ .crew) ∧
    (0 < w.missing.crew → ∀ c ∈ l, ∃ seat ∈ w.seats, seat.member = some c.member) ∧
    ∃ (picks : List (Role × Candidate)) (rest : List Candidate),
      let filled := fun r : Role => picks.countP fun y => y.1 = r
      let group := fun (r : Role) (role : SeatRole) =>
        ((picks.filter fun y => y.1 = r).map fun y => (⟨role, some y.2.member⟩ : SeatRecord)) ++
          List.replicate (x.seatsOf r - filled r) ⟨role, none⟩
      let crew := rest.take (x.total - (x.officer + x.driver + x.wearer))
      picks.map (·.1) = (w.roleOrder.flatMap fun r => List.replicate (filled r) r) ∧ (∀ r, filled r ≤ x.seatsOf r) ∧
      (∀ (earlier later : List (Role × Candidate)) (r : Role) (c : Candidate), picks = earlier ++ (r, c) :: later →
        let unpicked := l.filter fun d => d ∉ earlier.map (·.2)
        let unfilled := fun y : Role => x.seatsOf y - earlier.countP fun z => z.1 = y
        let shielded := fun d : Candidate => ∃ y : Role, y ≠ r ∧ 1 ≤ unfilled y ∧
          (unpicked.countP fun e => e.quals.has y) ≤ unfilled y ∧ d.quals.has y = true
        c ∈ unpicked ∧ c.quals.has r = true ∧
        (∀ d ∈ unpicked, d.quals.has r = true → d ≠ c →
          (¬shielded c → ¬shielded d → before c d) ∧ (shielded c → shielded d ∧ before c d)) ∧
        ∀ q : Role, [q, r].Sublist w.roleOrder → filled q < x.seatsOf q → ∀ d ∈ unpicked, d.quals.has q = false) ∧
      rest.Perm (l.filter fun d => d ∉ picks.map (·.2)) ∧ rest.Pairwise before ∧
      w.seats = group .officer .officer ++ group .driver .driver ++ group .wearer .wearer ++
        ((crew.map fun d => (⟨.crew, some d.member⟩ : SeatRecord)) ++
          List.replicate (x.total - (x.officer + x.driver + x.wearer) - crew.length) ⟨.crew, none⟩)

/-! ### The channel -/

/-- The four channel requests of a Station-class port. Set channel parameters is refused unless Stopped and stores all five
fields; Select site stores the site and tells every port of a change; Start runs the channel with a plan point at once, or
leaves it Suspended in fallback; Stop ends Running at the end of the cycle and Suspended at once, acting on each slot as R58
gives, with the Channel state notice before the Freed notices in slot order (R58, R108 to R111, R119). A keyed site, which a
Suspended channel does not have, would be released with its frame, its tone call and the field of log entry 6; that these are
cleared and that the cycle plan keeps its entries is log entry 16. What the plan point of a Start leaves is stated of
`State.openCycle` in PlanPointOpensTheNextCycle. -/
def Obligations.ChannelRequestsTakeEffect : Prop :=
  ∀ (s : State) (p : Port), s.takesStation p →
    let hiCycle := s.channel.cycle.extractLsb' 8 8
    let loCycle := s.channel.cycle.extractLsb' 0 8
    let moved := fun (new : ChannelState) (bytes cause : Byte) =>
      { s with channel := { s.channel with state := new } }.raiseNotice ⟨true, true, true⟩
        ⟨.channelState, 0, 255, bytes, cause, hiCycle, loCycle⟩
    (∀ station limit threshold mode level : Byte,
      let set := exec (.setChannelParameters p station limit threshold mode level) s
      (s.channel.state ≠ .stopped → set = .next (s.respond p [5])) ∧
      (s.channel.state = .stopped → 7 < limit.toNat ∨ 1 < mode.toNat → set = .next (s.respond p [4])) ∧
      (s.channel.state = .stopped → limit.toNat ≤ 7 → mode.toNat ≤ 1 →
        set = .next ({ s with channel := { s.channel with
          station := station
          distanceLimit := BitVec.ofNat 3 limit.toNat
          degradeThreshold := max 1 (min 96 threshold.toNat)
          mode := if mode = 0 then .request else .pin
          level := BitVec.ofNat 4 (min 15 level.toNat) } }.respond p [0]))) ∧
    (∀ site : Byte, 2 ≤ site.toNat → exec (.selectSite p site) s = .next (s.respond p [4])) ∧
    (∀ (site : Byte) (x : Site), (site = 0 ∧ x = .a ∨ site = 1 ∧ x = .b) →
      (x = s.channel.selected → exec (.selectSite p site) s = .next (s.respond p [0])) ∧
      (x ≠ s.channel.selected → exec (.selectSite p site) s = .next
        (({ s with channel := { s.channel with selected := x } }.raiseNotice ⟨true, true, true⟩
          ⟨.siteChanged, 0, 255, siteCode x * 16 + siteCode s.channel.selected, 0, hiCycle, loCycle⟩).respond p [0]))) ∧
    (∀ pins, s.faultMode = false →
      (s.channel.state ≠ .stopped → exec (.startChannel p pins) s = .next (s.respond p [5])) ∧
      (s.channel.state = .stopped → s.sup.clock = .internal →
        exec (.startChannel p pins) s = .next ((moved .suspended 48 0).respond p [0])) ∧
      (s.channel.state = .stopped → s.sup.clock = .reference →
        exec (.startChannel p pins) s = .next (((moved .running 16 0).openCycle true pins).respond p [0]))) ∧
    (s.channel.state = .stopped ∨ s.channel.state = .stopping → exec (.stopChannel p) s = .next (s.respond p [5])) ∧
    (s.channel.state = .running → exec (.stopChannel p) s = .next ((moved .stopping 33 1).respond p [0])) ∧
    (s.channel.state = .suspended → ∃ t, exec (.stopChannel p) s = .next t ∧
      t.channel = { s.channel with state := .stopped, pos := .absent, keyed := none } ∧
      (∀ k : SlotIdx, t.slots[k] = (s.slots[k]).bind Callout.afterStop) ∧
      t.tx = { s.tx with frame := [], assembled := none, tone := none, sample := 2048 } ∧
      t.ports = ((s.tellFreed (s.raiseNotice ⟨true, true, true⟩
        ⟨.channelState, 0, 255, 3, 1, hiCycle, loCycle⟩)).respond p [0]).ports ∧
      { t with channel := s.channel, slots := s.slots, tx := s.tx, ports := s.ports } = s)

/-- What a plan point opens, whether in a running cycle or at a Start or a restore, where no cycle precedes it: the cycle number
counts on, the G section opens at its symbol 0, the plan is built, the site lines are read and a site is keyed by them, with the
beacon of the new cycle in hand and the phase cleared; with neither site ready no site is keyed and every item of the plan is
returned. The notices are a Site changed of the SITE sample and then that of the keying decision, with the new cycle number. A
plan point is due at symbol 23,760 of a cycle, once the last cell has been decided; in Running it opens the next cycle. In
Stopping the channel becomes Stopped, its number kept and no plan built, with the Channel state notice and then the Freed
notices of R58 (R58, R108, R110, R112 to R114, R118, R120, R121, R124, R130, R135, R141). The model's own in it: the G section's
positions and the moment of the plan point (log entry 5), the field of the assembled frame (log entry 6), the registers after
the beacon (log entry 8), and the frame and tone call cleared with the PTT and the plan kept after the stop (log entry 16). -/
def Obligations.PlanPointOpensTheNextCycle : Prop :=
  (∀ (s : State) (lone : Bool) (pins : SitePins),
    let t := s.openCycle lone pins
    let chosen := if s.channel.mode = .pin then (if pins.site then Site.b else Site.a) else s.channel.selected
    let other := if chosen = .a then Site.b else Site.a
    let ready := fun x : Site => if x = .a then pins.rdyA else pins.rdyB
    let planned := (s.buildPlan).channel.plan
    t.channel.cycle = s.channel.cycle + 1 ∧ t.channel.pos = .lead lone 0 ∧
    t.channel.keyed = (if ready chosen then some chosen else if ready other then some other else none) ∧
    t.channel.selected =
      (if ready chosen = false ∧ ready other = true ∧ s.channel.mode = .request then other else chosen) ∧
    { t.channel with
      cycle := s.channel.cycle, pos := s.channel.pos, plan := s.channel.plan, selected := s.channel.selected
      keyed := s.channel.keyed } = s.channel ∧
    (∀ x, t.channel.keyed = some x →
      let bits := beaconBits (s.channel.cycle + 1) s.channel.station (wakeMask planned) (otherFrames planned) x
      t.channel.plan = planned ∧ t.slots = s.buildPlan.slots ∧
      t.tx = { s.tx with
        encoder := 0, puncture := 0, crc := crc16 bits, frame := beaconSync ++ codedSymbols bits .half, assembled := none
        tone := none, phase := 0 }) ∧
    (t.channel.keyed = none →
      t.tx = { s.tx with frame := [], assembled := none, tone := none, sample := 2048 } ∧
      t.channel.plan = planned.map (fun e => { e with state := .returned }) ∧ t.slots = s.buildPlan.returnUnsent.slots) ∧
    t.inputs = { s.inputs with
      rdyA := pins.rdyA, rdyB := pins.rdyB, site := if s.channel.mode = .pin then pins.site else s.inputs.site } ∧
    (let cycle := s.channel.cycle + 1
     let tell := fun (u : State) (kind : NoticeKind) (v0 v1 : Byte) =>
       u.raiseNotice ⟨true, true, true⟩ ⟨kind, 0, 255, v0, v1, cycle.extractLsb' 8 8, cycle.extractLsb' 0 8⟩
     let sampled := if chosen = s.channel.selected then s
       else tell s .siteChanged (siteCode chosen * 16 + siteCode s.channel.selected) 1
     t.ports = (if ready chosen then sampled
       else if ready other then
         (if s.channel.mode = .request then tell sampled .siteChanged (siteCode other * 16 + siteCode chosen) 2
         else tell sampled .siteFault (siteCode chosen * 64 + siteCode other * 16) 0)
       else tell sampled .siteFault (siteCode chosen * 64 + 33) (byteOf planned.length)).ports) ∧
    { t with channel := s.channel, slots := s.slots, tx := s.tx, ports := s.ports, inputs := s.inputs } = s) ∧
  ∀ (s : State) (pins : SitePins),
    (s.planPointDue = true ↔ (s.channel.state = .running ∨ s.channel.state = .stopping) ∧ s.channel.pos = .cycle 23760 ∧
      s.rx.carrier = .unsampled) ∧
    (s.clocked = true → s.planPointDue = true →
      (s.channel.state = .running → exec (.planPoint pins) s = .next (s.openCycle false pins)) ∧
      (s.channel.state = .stopping → ∃ t, exec (.planPoint pins) s = .next t ∧
        t.channel = { s.channel with state := .stopped, pos := .absent, keyed := none } ∧
        (∀ k : SlotIdx, t.slots[k] = (s.slots[k]).bind Callout.afterStop) ∧
        t.tx = { s.tx with frame := [], assembled := none, tone := none, sample := 2048 } ∧
        t.ports = (s.tellFreed (s.raiseNotice ⟨true, true, true⟩
          ⟨.channelState, 0, 255, 2, 2, s.channel.cycle.extractLsb' 8 8, s.channel.cycle.extractLsb' 0 8⟩)).ports ∧
        { t with channel := s.channel, slots := s.slots, tx := s.tx, ports := s.ports } = s))

/-- The four rows of the keying decision with their notices: the selected site; the other site, by failover in Request mode or
for this cycle in Pin mode; and neither, with every planned item returned and their number reported (R121, R124). -/
def Obligations.KeyingDecisionFollowsTheReadyInputs : Prop :=
  ∀ (s : State) (pins : SitePins) (sel oth : Site), s.channel.selected = sel → oth ≠ sel →
    let ready := fun x : Site => if x = .a then pins.rdyA else pins.rdyB
    let hiCycle := s.channel.cycle.extractLsb' 8 8
    let loCycle := s.channel.cycle.extractLsb' 0 8
    (ready sel = true → s.keyingDecision pins = s.key sel) ∧
    (ready sel = false → ready oth = true →
      (s.channel.mode = .request → s.keyingDecision pins =
        ({ s with channel := { s.channel with selected := oth } }.raiseNotice ⟨true, true, true⟩
          ⟨.siteChanged, 0, 255, siteCode oth * 16 + siteCode sel, 2, hiCycle, loCycle⟩).key oth) ∧
      (s.channel.mode = .pin → s.keyingDecision pins =
        (s.key oth).raiseNotice ⟨true, true, true⟩
          ⟨.siteFault, 0, 255, siteCode sel * 64 + siteCode oth * 16, 0, hiCycle, loCycle⟩)) ∧
    (ready sel = false → ready oth = false → s.keyingDecision pins =
      s.returnUnsent.unkey.raiseNotice ⟨true, true, true⟩
        ⟨.siteFault, 0, 255, siteCode sel * 64 + 33,
          byteOf (s.channel.plan.countP fun e => e.state = .pending || e.state = .onAir), hiCycle, loCycle⟩)

/-- The cycle plan that a plan point builds: its items are those of the turns, laid out back to back from symbol 240; they have
left their queues, and a Queued callout with an item planned is Alerting. The turns: callouts with queued items, by priority and
then by number; in a turn items from the head of the queue while they fit the budget and are no second Stand-down, the first
that is not planned ending it; all turns together within the budget. The wake mask and the other-frames flag name what the plan
holds (R47, R114, R116 to R118). -/
def Obligations.CyclePlanTakesQueuesInPriorityOrder : Prop :=
  (∀ s : State,
    (∀ (k : SlotIdx) (c : Callout), (k, c) ∈ s.waiting ↔ s.slots[k] = some c ∧ c.queue ≠ []) ∧
    s.waiting.Pairwise fun x y => y.2.priority.toNat < x.2.priority.toNat ∨
      (x.2.priority = y.2.priority ∧ x.2.number.toNat ≤ y.2.number.toNat)) ∧
  (∀ (budget : Nat) (queue : List TxItem),
    let turn := takeTurn budget false queue
    turn.1 ++ turn.2 = queue ∧ costOf turn.1 ≤ budget ∧ (turn.1.countP fun i => i.kind = .standDown) ≤ 1 ∧
    ∀ i rest, turn.2 = i :: rest →
      budget - costOf turn.1 < i.kind.cost ∨ (i.kind = .standDown ∧ ∃ j ∈ turn.1, j.kind = .standDown)) ∧
  (∀ (budget : Nat) (l : List (SlotIdx × Callout)), costOf ((planTurns budget l).flatMap (·.planned)) ≤ budget) ∧
  (∀ s : State, ∃ turns : List (SlotIdx × Callout × List TxItem × List TxItem),
    let items := fun ts : List (SlotIdx × Callout × List TxItem × List TxItem) => ts.flatMap fun x => x.2.2.1
    let u := s.buildPlan
    turns.map (fun x => (x.1, x.2.1)) = s.waiting ∧
    (∀ (earlier later : List (SlotIdx × Callout × List TxItem × List TxItem)) (k : SlotIdx) (c : Callout)
        (planned left : List TxItem), turns = earlier ++ (k, c, planned, left) :: later →
      (planned, left) = takeTurn (17760 - costOf (items earlier)) false c.queue ∧
      u.slots[k] = some { c with
        queue := left
        lifecycle := match c.lifecycle with
          | .active ⟨progress, repeats, rate⟩ =>
            .active ⟨if planned ≠ [] ∧ progress = .queued then .alerting else progress, repeats, rate⟩
          | lifecycle => lifecycle }) ∧
    u.channel.plan.map (·.item) = items turns ∧ (∀ e ∈ u.channel.plan, e.state = .pending) ∧ laidOut 240 u.channel.plan ∧
    (∀ k : SlotIdx, (∀ c, (k, c) ∉ s.waiting) → u.slots[k] = s.slots[k]) ∧
    { u with slots := s.slots, channel := s.channel } = s ∧ { u.channel with plan := s.channel.plan } = s.channel) ∧
  ∀ plan : List PlannedItem,
    (∀ g : GroupIdx, (wakeMask plan).getLsbD g = true ↔ ∃ e ∈ plan, ∃ r, e.item.kind = .groupAlert g r) ∧
    (otherFrames plan = true ↔
      ∃ e ∈ plan, (∃ m r, e.item.kind = .memberAlert m r) ∨ e.item.kind = .standDown ∨ e.item.kind = .closing)

/-- No step breaks the laws of the channel: the cycle plan stands back to back within the 17,760 symbols of the O section, a
cycle runs exactly in Running and Stopping, and a site is keyed only from its plan point to the end of its keyed period; so no
symbol of a reply section is taken with a site keyed (R107, R112, R116, R117, R122). -/
def Obligations.SitesAreKeyedOnlyWithinTheirPeriod : Prop :=
  (∀ s t : State, s.keyingLaw → step s = .next t → t.keyingLaw) ∧
    ∀ (s t : State) (pins : RxPins) (p : Nat), s.keyingLaw → s.channel.pos = .cycle p → 18000 ≤ p → s.eventDue = false →
      s.channel.keyed = none ∧ ∀ site, exec (.symbolTime pins) s = .next t → t.ptt site = false

/-- The completion of the item On air whose last symbol has ended: it is Sent, and the callout that still holds its number and
step serial takes it. For a step item an Active callout with nothing more of that serial to be sent becomes Queued, or Holding
when its queue is empty; for a Stand-down a Standing down one counts a Stand-down and is freed at the second; any other item or
callout takes nothing (R47, R54, R125). That the frame and the tone call of the item are then no longer in hand is the model's
choice (log entry 16); a tone call started at the same boundary stays in hand (R150). An item completes at the symbol after its
last, its start and its cost further on (R117, R125, log entry 5). -/
def Obligations.CompletionsMatchByNumberAndSerial : Prop :=
  (∀ (s : State) (e : PlannedItem), s.cyclePlanFits → (s.completing = some e ↔
    e ∈ s.channel.plan ∧ e.state = .onAir ∧ s.channel.pos = .cycle (e.start + e.cost))) ∧
  ∀ (s : State) (e : PlannedItem), s.clocked = true → s.completing = some e →
    let plan := s.channel.plan.map fun x => if x = e then { x with state := .sent } else x
    let s' := { s with
      channel := { s.channel with plan := plan }
      tx := { s.tx with frame := [], tone := s.tx.tone.filter fun x => x.start ≠ e.start } }
    let more := fun c : Callout => ∃ x ∈ plan, (x.state = .pending ∨ x.state = .onAir) ∧ x.item.callout = c.number ∧
      x.item.serial = c.serial
    (s.lookup e.item.callout = none → exec .completion s = .next s') ∧
    ∀ k c, s.lookup e.item.callout = some (k, c) →
      (c.serial ≠ e.item.serial → exec .completion s = .next s') ∧
      (c.serial = e.item.serial →
        (c.lifecycle = .departed → exec .completion s = .next s') ∧
        (c.isActive = true → e.item.kind = .standDown ∨ e.item.kind = .closing → exec .completion s = .next s') ∧
        (∀ progress repeats rate, c.lifecycle = .active ⟨progress, repeats, rate⟩ →
          e.item.kind ≠ .standDown → e.item.kind ≠ .closing →
          (more c → exec .completion s = .next (s'.setSlot k (some c))) ∧
          (¬more c → c.queue ≠ [] → exec .completion s = .next
            (s'.setSlot k (some { c with lifecycle := .active ⟨.queued, repeats, rate⟩ }))) ∧
          (¬more c → c.queue = [] → ∀ action condition hold n, s.plans[c.plan].steps[c.step] = .act action condition hold n →
            exec .completion s = .next (s'.setSlot k (some { c with
              lifecycle := .active ⟨.holding (min 4095 (c.elapsed + hold)) false, repeats, rate⟩ })))) ∧
        ∀ sent, c.lifecycle = .standingDown sent →
          (e.item.kind ≠ .standDown → exec .completion s = .next s') ∧
          (e.item.kind = .standDown → sent = 1 → exec .completion s = .next
            ((s'.setSlot k none).raiseNotice (s.interested c) ⟨.freed, c.number, 255, 1, 0, 0, 0⟩)) ∧
          (e.item.kind = .standDown → sent = 0 → exec .completion s = .next
            (s'.setSlot k (some { c with lifecycle := .standingDown 1 }))))

/-- A keyed period ends after the last item of the cycle plan, which holds its items back to back from symbol 240, and at symbol
240 for an empty one (log entry 5). Its end releases the PTT and rests the output. A ready loss of the keyed site does so at
once, returns the item On air and every Pending one in plan order to the heads of the queues of the callouts that still hold
their number and serial, Active for a step's item and Standing down for a Stand-down, and reports how many; an Active callout
that has one put back is Queued, and the ready input is then inactive. So does every return of the planned items. Once the last
item has completed, the end of which releases the PTT, a ready loss finds no keyed period (R122, R123, R126, R132, R143, R144).
That the frame and the tone call in hand are cleared with the PTT is the model's choice (log entry 16), the assembled frame
beside them is the field of log entry 6, and the time between completion and release is log entry 23. -/
def Obligations.ReadyLossReturnsItemsInPlanOrder : Prop :=
  let unsent := fun e : PlannedItem => e.state = .pending ∨ e.state = .onAir
  let back := fun (c : Callout) (i : TxItem) => i.callout = c.number ∧ i.serial = c.serial ∧
    (c.isActive = true ∧ i.kind ≠ .standDown ∧ i.kind ≠ .closing ∨
      c.isActive = false ∧ c.lifecycle ≠ .departed ∧ i.kind = .standDown)
  let emptied := fun plan : List PlannedItem => plan.map fun e => if unsent e then { e with state := .returned } else e
  let refilled := fun (s t : State) =>
    (∀ k : SlotIdx, s.slots[k] = none → t.slots[k] = none) ∧
    ∀ (k : SlotIdx) (c : Callout), s.slots[k] = some c →
      let returned := ((s.channel.plan.filter fun e => unsent e).map (·.item)).filter fun i => back c i
      t.slots[k] = some { c with
        queue := returned ++ c.queue
        lifecycle := match c.lifecycle with
          | .active ⟨progress, repeats, rate⟩ =>
            .active ⟨if returned = [] then progress else .queued, repeats, rate⟩
          | l => l }
  (∀ (s : State) (site : Site), s.ptt site = true ↔ s.channel.keyed = some site) ∧
  (∀ s : State, s.cyclePlanFits → (s.periodEnding = true ↔
    s.channel.keyed ≠ none ∧ s.channel.pos = .cycle (240 + (s.channel.plan.map (·.cost)).sum))) ∧
  (∀ s : State, s.tagsDistinct → refilled s s.returnUnsent ∧
    s.returnUnsent.channel = { s.channel with plan := emptied s.channel.plan } ∧
    { s.returnUnsent with channel := s.channel, slots := s.slots } = s) ∧
  (∀ s : State, s.clocked = true → s.periodEnding = true →
    exec .keyedPeriodEnd s = .next { s with
      channel := { s.channel with keyed := none }
      tx := { s.tx with frame := [], assembled := none, tone := none, sample := 2048 } }) ∧
  (∀ (s : State) (site : Site), s.channel.keyed = some site → s.periodEnding = true → s.channel.plan ≠ [] →
    (∀ e ∈ s.channel.plan, e.state ≠ .pending ∧ e.state ≠ .onAir) → exec (.readyLoss site) s = .next s) ∧
  ∀ (s : State) (site : Site), s.tagsDistinct → s.sup.held = false → s.channel.keyed = some site →
    (s.periodEnding = false ∨ s.channel.plan = [] ∨ ∃ e ∈ s.channel.plan, e.state = .pending ∨ e.state = .onAir) →
    ∃ t, exec (.readyLoss site) s = .next t ∧
      t.channel = { s.channel with keyed := none, plan := emptied s.channel.plan } ∧
      t.tx = { s.tx with frame := [], assembled := none, tone := none, sample := 2048 } ∧
      t.ports = (s.raiseNotice ⟨true, true, true⟩
        ⟨.siteFault, 0, 255, siteCode site * 64 + 34, byteOf (s.channel.plan.countP fun e => unsent e),
          s.channel.cycle.extractLsb' 8 8, s.channel.cycle.extractLsb' 0 8⟩).ports ∧
      refilled s t ∧
      t.inputs = (match site with
        | .a => { s.inputs with rdyA := false }
        | .b => { s.inputs with rdyB := false }) ∧
      { t with channel := s.channel, slots := s.slots, tx := s.tx, ports := s.ports, inputs := s.inputs } = s

/-! ### The transmit path -/

/-- The preparation of a planned item: a frame assembled whole from the sources as they stand, one symbol before its start, an
alert at the rate of its item and a Stand-down or a Closing at 1/2 (R46), its registers left as its last bit left them (log
entry 8), and a tone call's two increments fixed from the tables at its start (R134, R136 to R139, R145, R146, R187). The
assembled frame's field beside the frame in hand is the model's own, and so is that a frame is assembled once while that field
is filled (log entry 6); the start symbol kept with a tone call, by which it is started once, is log entry 16, and that each is
due when the position has come to its symbol is log entry 5. -/
def Obligations.FramesAndTonesArePrepared : Prop :=
  (∀ (s : State) (e : PlannedItem), s.cyclePlanFits →
    (s.assembling = some e ↔ s.tx.assembled = none ∧ e ∈ s.channel.plan ∧ e.state = .pending ∧
      (∀ g, e.item.kind ≠ .toneCall g) ∧ ∃ p, s.channel.pos = .cycle p ∧ p + 1 = e.start) ∧
    (s.startingTone = some e ↔ e ∈ s.channel.plan ∧ e.state = .pending ∧ (∃ g, e.item.kind = .toneCall g) ∧
      s.channel.pos = .cycle e.start ∧ ∀ tone, s.tx.tone = some tone → tone.start ≠ e.start)) ∧
  (∀ (s : State) (e : PlannedItem), s.clocked = true → s.assembling = some e →
    ∀ rate : CodeRate, ((∃ g, e.item.kind = .groupAlert g rate) ∨ (∃ m, e.item.kind = .memberAlert m rate) ∨
        (e.item.kind = .standDown ∨ e.item.kind = .closing) ∧ rate = .half) →
      exec .frameAssembly s = .next { s with tx := { s.tx with
        assembled := some (frameSync ++ codedSymbols (s.frameData e.item) rate)
        crc := crc16 (s.frameData e.item)
        encoder := 0
        puncture := if rate = .threeQuarters then 1 else 0 } }) ∧
  (∀ (s : State) (e : PlannedItem), s.clocked = true → s.startingTone = some e →
    ∃ g, e.item.kind = .toneCall g ∧
      exec .toneCallStart s = .next { s with tx := { s.tx with
        tone := some ⟨e.start, toneIncrement s.tx.frequencies[s.tx.pairs[g].indexA],
          toneIncrement s.tx.frequencies[s.tx.pairs[g].indexB]⟩ } }) ∧
  ∀ (s : State) (n : Half) (serial : Byte),
    let station := bitsOf s.channel.station
    let fields := fun c : Callout => bitsOf c.priority ++ bitsOf (BitVec.ofNat 3 c.step.val) ++ bitsOf c.cls ++ bitsOf c.location
    (∀ (b : List Bool), (s.lookup n = none ∧ b = zeros 32 ∨ ∃ k c, s.lookup n = some (k, c) ∧ b = fields c) →
      (∀ (g : GroupIdx) (r : CodeRate), s.frameData ⟨.groupAlert g r, n, serial⟩ =
        bitsOf 2#4 ++ bitsOf (BitVec.ofNat 20 (g.val + 1)) ++ bitsOf n ++ b ++ station) ∧
      (∀ (m : MemberIdx) (r : CodeRate) (a : BitVec 20),
        ((s.member m).inUse = true ∧ (∃ groups, (s.member m).pager = .digital a groups) ∨
          ((s.member m).inUse = false ∨ ∀ b groups, (s.member m).pager ≠ .digital b groups) ∧ a = 0) →
        s.frameData ⟨.memberAlert m r, n, serial⟩ = bitsOf 3#4 ++ bitsOf a ++ bitsOf n ++ b ++ station)) ∧
    s.frameData ⟨.standDown, n, serial⟩ = bitsOf 4#4 ++ zeros 20 ++ bitsOf n ++ zeros 32 ++ station ∧
    s.frameData ⟨.closing, n, serial⟩ = bitsOf 5#4 ++ zeros 20 ++ bitsOf n ++ zeros 32 ++ station

/-- The costs of R115, in symbol times: an alert 224 at rate 1/2, 174 at 2/3 and 158 at 3/4, a Stand-down and a Closing 224, a
Tone call 9,600 (R145). Every frame has 80 data bits, goes out at the rate of its item, which is 1/2 for a Stand-down and a
Closing (R46), and occupies exactly its cost in symbols, sync pattern included; a beacon at rate 1/2 occupies the first 224
symbols of the B section. The 80 bits of a beacon stand as the table of R187 lays them out (R115, R133, R138, R139, R187). -/
def Obligations.FramesOccupyTheirCost : Prop :=
  (let costAt := fun r : CodeRate => match r with
     | .half => 224
     | .twoThirds => 174
     | .threeQuarters => 158
   (∀ (g : GroupIdx) (r : CodeRate), (ItemKind.groupAlert g r).cost = costAt r ∧ (ItemKind.groupAlert g r).frameRate = r) ∧
   (∀ (m : MemberIdx) (r : CodeRate), (ItemKind.memberAlert m r).cost = costAt r ∧ (ItemKind.memberAlert m r).frameRate = r) ∧
   ItemKind.standDown.cost = 224 ∧ ItemKind.standDown.frameRate = .half ∧
   ItemKind.closing.cost = 224 ∧ ItemKind.closing.frameRate = .half ∧ (∀ g : ToneGroup, (ItemKind.toneCall g).cost = 9600) ∧
   (∀ k : ItemKind, k.isFrame = true ↔ ∀ g, k ≠ .toneCall g) ∧
   ∀ l : List TxItem, costOf l = (l.map fun i => i.kind.cost).sum) ∧
  (∀ (s : State) (i : TxItem), i.kind.isFrame = true →
    (s.frameData i).length = 80 ∧
    (frameSync ++ codedSymbols (s.frameData i) i.kind.frameRate).length = i.kind.cost) ∧
  (∀ (cycle : Half) (station : Byte) (wake : BitVec 12) (others : Bool) (keyed : Site),
    (beaconBits cycle station wake others keyed).length = 80 ∧
    (beaconSync ++ codedSymbols (beaconBits cycle station wake others keyed) .half).length = 224 ∧
    ∀ i, i < 80 → (beaconBits cycle station wake others keyed)[i]? = some
      (if i < 4 then decide (i = 3) else if i < 20 then cycle.getLsbD (19 - i) else if i < 28 then station.getLsbD (27 - i)
      else if i < 40 then wake.getLsbD (i - 28) else if i = 40 then others else if i = 41 then decide (keyed = .b) else false)) ∧
  beaconSync = [true, true, true, false, true, true, false, true, false, true, false, false, false, true, true, false, false,
    false, true, true, false, false, true, false] ∧
  frameSync = [false, false, false, true, false, false, true, false, true, false, true, true, true, false, false, true, true,
    true, false, false, true, true, false, true] ∧
  ∀ (data : List Bool) (rate : CodeRate), data.length = 80 →
    (codedSymbols data rate).length = match rate with
      | .half => 200
      | .twoThirds => 150
      | .threeQuarters => 134

/-- The coded symbols of an input sequence: C0 and C1 of each bit by the formulas of R137, from a cleared register, and of each
pair the symbols that the rate keeps at its puncture position. The CRC-16 and the CRC-4, bit by bit: the register shifts one place
up, and the feedback, the bit XOR the top bit, enters at the places of the generator's terms, from a register of all ones and of
zeros (R136 to R138, R158). The encoder's input is the data bits, the CRC-16 most significant bit first, and four zeros (R136). -/
def Obligations.EncoderFollowsItsFormulas : Prop :=
  (crc16 [] = 0xFFFF#16 ∧ ∀ (data : List Bool) (b : Bool) (i : Nat), i < 16 →
    let fed := b ^^ (crc16 data).getLsbD 15
    (crc16 (data ++ [b])).getLsbD i =
      ((if i = 0 then false else (crc16 data).getLsbD (i - 1)) ^^ (if i = 0 ∨ i = 5 ∨ i = 12 then fed else false))) ∧
  (crc4 [] = 0#4 ∧ ∀ (data : List Bool) (b : Bool) (i : Nat), i < 4 →
    let fed := b ^^ (crc4 data).getLsbD 3
    (crc4 (data ++ [b])).getLsbD i =
      ((if i = 0 then false else (crc4 data).getLsbD (i - 1)) ^^ (if i = 0 ∨ i = 1 then fed else false))) ∧
  (∀ (w : Nat) (x : BitVec w), bitsOf x = (List.range w).map fun i => x.getLsbD (w - 1 - i)) ∧
  (∀ n : Nat, zeros n = List.replicate n false) ∧
  (∀ (data : List Bool) (rate : CodeRate), codedSymbols data rate =
    punctured rate 0 (codedPairs 0 (data ++ (List.range 16).map (fun i => (crc16 data).getLsbD (15 - i)) ++
      [false, false, false, false]))) ∧
  (∀ (b : List Bool) (n : Nat), n < b.length →
    let bit := fun back : Nat => if back ≤ n then b.getD (n - back) false else false
    (codedPairs 0 b)[n]? = some (bit 0 ^^ bit 3 ^^ bit 4, bit 0 ^^ bit 1 ^^ bit 2 ^^ bit 4)) ∧
  (∀ b : List Bool, (codedPairs 0 b).length = b.length) ∧
  ∀ (l : List (Bool × Bool)) (rate : CodeRate),
    punctured rate 0 l = l.zipIdx.flatMap fun x =>
      match rate with
      | .half => [x.1.1, x.1.2]
      | .twoThirds => if x.2 % 2 = 0 then [x.1.1, x.1.2] else [x.1.1]
      | .threeQuarters => if x.2 % 3 = 0 then [x.1.1, x.1.2] else if x.2 % 3 = 1 then [x.1.2] else [x.1.1]

/-- A symbol time is held back by each event due before it (log entry 5). With none due it advances the position by one and,
while a site is keyed, sets the increment of its symbol: fill in G and at the end of B, the beacon in B, in O the frame or tone
of the item whose symbols hold the position, On air from its start symbol on; of the channel nothing changes but the position
and that item's state. In the reply section the receiver takes its lines at the positions of R127. A sample time sends 2,048
unkeyed and, keyed, one more increment of phase through the sine table at the level, a silent tone holding 2,048; an entry of
the table is 2,047 times the sine, to the nearest integer. The word goes out most significant bit first, DSFS marking its first
bit (R112, R127, R133, R140 to R143, R145, R152). The model's own in it: the field of the assembled frame (log entry 6), the
word after a restore, 2,048 with the phase advanced, and its mark (log entry 7), the field of the word sent (log entry 13), and
silence known by a tone call in hand with the increment 0 (log entry 17). -/
def Obligations.SymbolAndSampleTimesPass : Prop :=
  (∀ s : State, s.eventDue = true ↔ s.completing ≠ none ∨ s.assembling ≠ none ∨ s.startingTone ≠ none ∨
    s.periodEnding = true ∨ s.endingCell ≠ none ∨ s.planPointDue = true) ∧
  (∀ (s : State) (pins : RxPins), s.clocked = true → s.channel.state.cycling = true → s.eventDue = false →
    let toned := fun symbol : Bool => if symbol then 12288#16 else 8192#16
    (∀ lone j, s.channel.pos = .lead lone j →
      exec (.symbolTime pins) s = .next { s with
        channel := { s.channel with pos := if j + 1 < 240 then .lead lone (j + 1) else .cycle 0 }
        tx := if s.channel.keyed = none then s.tx else { s.tx with increment := toned (j % 2 = 0) } }) ∧
    ∀ p, s.channel.pos = .cycle p → ∃ t, exec (.symbolTime pins) s = .next t ∧
      t.channel.pos = .cycle (p + 1) ∧ { t.channel with pos := s.channel.pos, plan := s.channel.plan } = s.channel ∧
      (p < 240 → t.channel.plan = s.channel.plan) ∧
      (s.channel.keyed = none → t.tx = s.tx ∧ t.channel.plan = s.channel.plan) ∧
      (s.channel.keyed ≠ none → p < 224 → t.tx = { s.tx with increment := toned (s.tx.frame.getD p false) }) ∧
      (s.channel.keyed ≠ none → 224 ≤ p → p < 240 → t.tx = { s.tx with increment := toned ((p - 224) % 2 = 0) }) ∧
      (s.channel.keyed ≠ none → s.cyclePlanFits → ∀ e ∈ s.channel.plan, (e.state = .pending ∨ e.state = .onAir) →
        e.start ≤ p → p < e.start + e.cost →
        t.channel.plan = (if p = e.start then
          s.channel.plan.map fun x => if x = e then { x with state := .onAir } else x else s.channel.plan) ∧
        ((∀ g, e.item.kind ≠ .toneCall g) →
          let frame := if p = e.start then s.tx.assembled.getD [] else s.tx.frame
          t.tx = { s.tx with
            frame := frame
            assembled := if p = e.start then none else s.tx.assembled
            increment := toned (frame.getD (p - e.start) false) }) ∧
        ∀ g tone, e.item.kind = .toneCall g → s.tx.tone = some tone →
          t.tx = { s.tx with increment := if p < e.start + 2400 then tone.incrementA else tone.incrementB }) ∧
      (p < 18000 → t.rx = s.rx ∧ t.inputs = s.inputs) ∧
      (18000 ≤ p →
        let j := (p - 18000) % 60
        t.rx.rejected = s.rx.rejected ∧
        t.rx.carrier = (if j = 30 then (if pins.rxc then .present else .absent) else s.rx.carrier) ∧
        t.inputs = { s.inputs with
          rxd := if 2 ≤ j ∧ j ≤ 57 then pins.rxd else s.inputs.rxd
          rxe := if 2 ≤ j ∧ j ≤ 57 then pins.rxe else s.inputs.rxe
          rxc := if j = 30 then pins.rxc else s.inputs.rxc } ∧
        ∀ i : Fin 56, t.rx.buffer[i] =
          if j = i.val + 2 then (if pins.rxe then .erased else if pins.rxd then .one else .zero) else s.rx.buffer[i]) ∧
      { t with channel := s.channel, tx := s.tx, rx := s.rx, inputs := s.inputs } = s) ∧
  ∀ s : State, s.clocked = true →
    (s.channel.keyed = none →
      exec .sampleTime s = .next { s with tx := { s.tx with sample := 2048, dacWord := some 2048, restoreWord := false } }) ∧
    (s.channel.keyed ≠ none → s.tx.restoreWord = false →
      (s.tx.tone ≠ none ∧ s.tx.increment = 0 →
        exec .sampleTime s = .next { s with tx := { s.tx with sample := 2048, dacWord := some 2048 } }) ∧
      (¬(s.tx.tone ≠ none ∧ s.tx.increment = 0) → ∃ (entry : Int) (x : BitVec 12),
        |(entry : ℝ) - 2047 * Real.sin (2 * Real.pi * ((s.tx.phase + s.tx.increment).toNat / 256 : Nat) / 256)| ≤ 1 / 2 ∧
        (x.toNat : Int) = 2048 + Int.tdiv (entry * (s.channel.level.toNat + 1)) 16 ∧
        exec .sampleTime s = .next { s with tx := { s.tx with
          phase := s.tx.phase + s.tx.increment, sample := x, dacWord := some x } })) ∧
    (s.channel.keyed ≠ none → s.tx.restoreWord = true → exec .sampleTime s = .next { s with tx := { s.tx with
      phase := if s.tx.tone ≠ none ∧ s.tx.increment = 0 then s.tx.phase else s.tx.phase + s.tx.increment
      sample := 2048, dacWord := some 2048, restoreWord := false } }) ∧
    (s.tx.dacWord = none → s.dacBits = []) ∧
    ∀ word, s.tx.dacWord = some word → s.dacBits.length = 12 ∧
      ∀ i, i < 12 → s.dacBits[i]? = some (word.getLsbD (11 - i), decide (i = 0))

/-- No step takes the sample output out of 1 to 4,095 while a site is keyed, or off 2,048 while none is keyed (R143). -/
def Obligations.SampleOutputStaysInRange : Prop :=
  ∀ s t : State, s.sampleLaw → step s = .next t → t.sampleLaw

/-! ### The reply receiver -/

/-- The distance of 56 received values from a codeword is the number of places received as 0 or 1 that differ from it. The
decoded word is the word whose codeword has the least distance, the one of smallest numerical value where several share it, and
the distance of the cell is its distance, 0 to 56 (R156). -/
def Obligations.BurstDecodesToTheNearestWord : Prop :=
  ∀ received : List RxValue, received.length = 56 →
    (∀ code : List Bool, code.length = 56 → distance received code = (List.range 56).countP fun i =>
      (received.getD i .erased = .zero && code.getD i false = true) ||
        (received.getD i .erased = .one && code.getD i false = false)) ∧
    let best := decodeBurst received
    best.1 = distance received (codeword best.2) ∧ best.1 ≤ 56 ∧
    ∀ w : BitVec 24, best.1 ≤ distance received (codeword w) ∧
      (distance received (codeword w) = best.1 → best.2.toNat ≤ w.toNat)

/-- A codeword is the 56 symbols C0 and C1, by the formulas of R137, of the 24 bits of its word, the most significant first, and
of four zero tail bits; the codewords of two different words differ in at least 7 places (R155). -/
def Obligations.CodewordsDifferInSevenPlaces : Prop :=
  ∀ w : BitVec 24, (codeword w).length = 56 ∧
    (∀ n, n < 28 →
      let bit := fun back : Nat => if back ≤ n ∧ n - back < 24 then w.getMsbD (n - back) else false
      (codeword w)[2 * n]? = some (bit 0 ^^ bit 3 ^^ bit 4) ∧
        (codeword w)[2 * n + 1]? = some (bit 0 ^^ bit 1 ^^ bit 2 ^^ bit 4)) ∧
    ∀ v : BitVec 24, v ≠ w → 7 ≤ ((codeword v).zip (codeword w)).countP fun x => x.1 ≠ x.2

/-- The decision of a cell at its end, stage by stage, and its trace: an empty cell leaves none, a rejected one counts, an
accepted one sets last heard and hands its reply on, to the roster or to the Active callout that carries its tag. The cell is
cleared, and cell 95 hands the count to the scheduler. An availability that changes and a quality that changes are told by their
notices, in that order. A status reply waits for the callout replies of earlier cells. Cell k, once sampled, ends when the
position has come to 18,000 + 60 (k + 1) (R11, R12, R127, R128, R153, R154, R157 to R162; log entry 5).
That the callout replies on their way stand in a list is the model's form (log entry 9). -/
def Obligations.CellEndDecidesTheCell : Prop :=
  (∀ (s : State) (k : MemberIdx), s.endingCell = some k ↔
    s.rx.carrier ≠ .unsampled ∧ s.channel.pos = .cycle (18000 + 60 * (k.val + 1))) ∧
  ∀ (s : State) (k : MemberIdx), s.tagsDistinct → s.clocked = true → s.endingCell = some k →
    let best := decodeBurst s.rx.buffer.toList
    let w := best.2.toNat
    let accepted := s.rx.carrier = .present ∧ (s.rx.buffer.toList.countP fun v => v = .erased) ≤ 16 ∧
      best.1 ≤ s.channel.distanceLimit.toNat ∧ (crc4 ((bitsOf best.2).take 20)).toNat = w % 16 ∧
      (s.member k).inUse = true ∧ ∃ a g, (s.member k).pager = .digital a g ∧ a.toNat % 128 = w / 16 % 128
    let count := fun n : Nat => (accepted ∨ s.rx.carrier ≠ .present) ∧ n = s.rx.rejected ∨
      ¬accepted ∧ s.rx.carrier = .present ∧ n = s.rx.rejected + 1
    let eta := if w / 131072 % 32 = 31 then none else some (w / 131072 % 32)
    let matching := fun c : Callout => (∃ j : SlotIdx, s.slots[j] = some c) ∧ c.isActive = true ∧
      c.number.toNat % 64 = w / 2048 % 64
    let status := fun v : Availability => accepted ∧ (w / 4194304 = 2 ∧ v = .available ∨ w / 4194304 = 3 ∧ v = .unavailable)
    (s.handOffs ≠ [] → (∃ v, status v) → exec .cellEnd s = .next s) ∧
    (s.handOffs = [] ∨ (∀ v, ¬status v) → ∃ t, exec .cellEnd s = .next t ∧
      t.rx.buffer = Vector.replicate 56 .unfilled ∧ t.rx.carrier = .unsampled ∧
      (k ≠ 95 → count t.rx.rejected ∧ t.channel = s.channel) ∧
      (k = 95 → t.rx.rejected = 0 ∧ ∃ n, count n ∧ t.channel = { s.channel with
        quality := if s.channel.degradeThreshold ≤ n then .poor else .good }) ∧
      (∃ told : State,
        ((∃ v, status v ∧ v ≠ (s.member k).availability ∧
            told = s.raiseNotice s.stations ⟨.availability, 0, byteOf k, v.code, 4, 0, 0⟩) ∨
          (∀ v, status v → v = (s.member k).availability) ∧ told = s) ∧
        (t.channel.quality = s.channel.quality → t.ports = told.ports) ∧
        (t.channel.quality ≠ s.channel.quality → ∃ n, count n ∧
          t.ports = (told.raiseNotice ⟨true, true, true⟩ ⟨.receptionQuality, 0, 255, t.channel.quality.code, byteOf n,
            s.channel.cycle.extractLsb' 8 8, s.channel.cycle.extractLsb' 0 8⟩).ports)) ∧
      (¬accepted → t.roster = s.roster ∧ t.handOffs = s.handOffs) ∧
      (accepted →
        (∀ m, m ≠ k → t.member m = s.member m) ∧
        (w / 4194304 = 0 ∨ w / 4194304 = 1 →
          t.member k = { s.member k with lastHeard := some s.channel.cycle } ∧
          (∀ c, matching c → t.handOffs = s.handOffs ++
            [if w / 4194304 = 0 then ⟨k, .attending, eta, c.number⟩ else ⟨k, .declined, none, c.number⟩]) ∧
          ((∀ c, ¬matching c) → t.handOffs = s.handOffs)) ∧
        ∀ v : Availability, (w / 4194304 = 2 ∧ v = .available ∨ w / 4194304 = 3 ∧ v = .unavailable) →
          t.handOffs = s.handOffs ∧
          t.member k = { s.member k with
            lastHeard := some s.channel.cycle
            availability := v
            source := if (s.member k).availability = v then (s.member k).source else .pager }) ∧
      { t with roster := s.roster, handOffs := s.handOffs, rx := s.rx, channel := s.channel, ports := s.ports } = s)

/-! ### Supervision -/

/-- Reset holds the part with its outputs at rest; its end samples the straps, gives every table and register its reset contents
and begins the self-test; the end of the self-test sets the four results and leaves the four groups at their reset contents, the
overflow marks as they were (R2, R21, R34, R151, R169, R177, R180, R181). That the tables keep their contents while the part is
held, and the mark that it is held, are the model's reading (log entry 11); the absent word is the field of log entry 13, the
input levels, of which the end of a reset samples the straps alone, are those of log entry 2, the assembled frame that of log
entry 6, the frame and tone call cleared with the PTT are log entry 16, and the count of free values read, which a reset keeps,
is log entry 21. -/
def Obligations.ResetClearsAndTheSelfTestEnds : Prop :=
  ∀ s : State,
    (∃ t, exec .reset s = .next t ∧
      t.sup = { s.sup with held := true } ∧ t.channel = { s.channel with keyed := none } ∧
      t.tx = { s.tx with frame := [], assembled := none, tone := none, sample := 2048, dacWord := none } ∧
      (∀ p, t.port p = { s.port p with frame := .closed } ∧ t.attention p = false) ∧
      { t with sup := s.sup, channel := s.channel, tx := s.tx, ports := s.ports } = s) ∧
    (∀ pins, s.sup.held = true → ∃ t, exec (.resetEnd pins) s = .next t ∧
      t.pending = s.pending ∧ t.edgesRead = s.edgesRead ∧
      (∀ m, t.member m = ⟨false, .absent, ⟨false, false, false⟩, 0, .unavailable, .reset, .free, none⟩) ∧
      (∀ i : PlanIdx, t.plans[i].template = ⟨0, 0, 0, 0, 0⟩ ∧ t.plans[i].usage = 0 ∧
        ∀ j : StepIdx, t.plans[i].steps[j] = .finish) ∧
      (∀ k : SlotIdx, t.slots[k] = none) ∧ t.serialCounter = 1 ∧ t.handOffs = [] ∧
      t.channel = ⟨.stopped, 0, .absent, [], .a, none, .request, 0, 3, 8, 12, .good⟩ ∧
      (t.tx.encoder = 0 ∧ t.tx.puncture = 0 ∧ t.tx.crc = 65535 ∧ t.tx.frame = [] ∧ t.tx.assembled = none ∧ t.tx.tone = none ∧
        t.tx.phase = 0 ∧ t.tx.increment = 0 ∧ t.tx.sample = 2048 ∧ (∀ i : ToneIdx, t.tx.frequencies[i] = 0) ∧
        t.tx.dacWord = none ∧ t.tx.restoreWord = false ∧ ∀ g : ToneGroup, t.tx.pairs[g] = ⟨0, 0⟩) ∧
      t.inputs = { s.inputs with clsA := pins.clsA, clsB := pins.clsB, clsC := pins.clsC } ∧
      ((∀ i : Fin 56, t.rx.buffer[i] = .unfilled) ∧ t.rx.carrier = .unsampled ∧ t.rx.rejected = 0) ∧
      t.ports = ⟨⟨if pins.clsA then .station else .dispatch, .closed, [], false, pins.selLowA⟩,
        ⟨if pins.clsB then .station else .dispatch, .closed, [], false, pins.selLowB⟩,
        ⟨if pins.clsC then .station else .dispatch, .closed, [], false, pins.selLowC⟩⟩ ∧
      t.sup = ⟨false, .testing, .reference, .idle, 0, 0⟩) ∧
    ∀ results, s.sup.held = false → s.testing = true → ∃ t, exec (.selfTestEnd results) s = .next t ∧
      t.sup = { s.sup with selfTest := .ended results } ∧
      (t.faultMode = true ↔ results.roster = true ∨ results.callouts = true ∨ results.plansAndTones = true ∨
        results.noticeQueues = true) ∧
      (∀ m, t.member m = ⟨false, .absent, ⟨false, false, false⟩, 0, .unavailable, .reset, .free, none⟩) ∧
      (∀ i : PlanIdx, t.plans[i].template = ⟨0, 0, 0, 0, 0⟩ ∧ t.plans[i].usage = 0 ∧
        ∀ j : StepIdx, t.plans[i].steps[j] = .finish) ∧
      (∀ k : SlotIdx, t.slots[k] = none) ∧ t.serialCounter = 1 ∧
      (∀ i : ToneIdx, t.tx.frequencies[i] = 0) ∧ (∀ g : ToneGroup, t.tx.pairs[g] = ⟨0, 0⟩) ∧
      (∀ p, t.port p = { s.port p with queue := [] }) ∧
      { t.tx with frequencies := s.tx.frequencies, pairs := s.tx.pairs } = s.tx ∧
      t.channel = s.channel ∧ t.rx = s.rx ∧ t.handOffs = s.handOffs ∧ t.inputs = s.inputs ∧ t.edgesRead = s.edgesRead ∧
      t.pending = s.pending

/-- The loss of the reference: the source Internal, the measurement and the tick count from 0, a Clock fallback notice, and the
channel's reaction: Running becomes Suspended and Stopping becomes Stopped, each with its PTT released, its items returned and
its reply section cut off, with the Channel state notice and then the Freed notices of R58. A gap sets the measurement back, and
one that comes after the restore is a loss. The restore, once the measurement has reached 9,830,400 reference periods: the
source Reference, a Clock restored notice, and a Suspended channel Running with a plan point at once (R58, R110, R129, R130,
R162, R184 to R186). The model's own in it: the assembled frame's field (log entry 6), the mark of the word after the restore
(log entry 7), the absent word (log entry 13), and the frame and tone call cleared with the PTT (log entry 16). What the plan
point of a restore leaves is stated of `State.openCycle` in PlanPointOpensTheNextCycle. -/
def Obligations.ClockLossAndRestoreMoveTheChannel : Prop :=
  ∀ s : State, s.sup.held = false →
    let hiCycle := s.channel.cycle.extractLsb' 8 8
    let loCycle := s.channel.cycle.extractLsb' 0 8
    let every : PortSet := ⟨true, true, true⟩
    (s.sup.clock = .reference →
      let lost := { s with
        sup := { s.sup with clock := .internal, restore := .measuring 0, fallbackTicks := 0 }
        tx := { s.tx with dacWord := none } }.raiseNotice every
          ⟨.clockFallback, 0, 255, s.channel.state.code, hiCycle, loCycle, 0⟩
      let rested := fun t : State =>
        t.rx = ⟨Vector.replicate 56 .unfilled, .unsampled, 0⟩ ∧ t.sup = lost.sup ∧
        t.tx = { s.tx with frame := [], assembled := none, tone := none, sample := 2048, dacWord := none } ∧
        t.roster = s.roster ∧ t.plans = s.plans ∧ t.handOffs = s.handOffs ∧ t.serialCounter = s.serialCounter ∧
        t.inputs = s.inputs ∧ t.edgesRead = s.edgesRead ∧ t.pending = s.pending
      (s.channel.state = .stopped ∨ s.channel.state = .suspended → exec .referenceLost s = .next lost) ∧
      (s.channel.state = .running → ∃ t, exec .referenceLost s = .next t ∧ rested t ∧
        t.slots = s.returnUnsent.slots ∧
        t.channel = { s.returnUnsent.channel with state := .suspended, pos := .absent, keyed := none } ∧
        t.ports = (lost.raiseNotice every ⟨.channelState, 0, 255, 49, 3, hiCycle, loCycle⟩).ports) ∧
      (s.channel.state = .stopping → ∃ t, exec .referenceLost s = .next t ∧ rested t ∧
        t.channel = { s.returnUnsent.channel with state := .stopped, pos := .absent, keyed := none } ∧
        t.ports = (s.tellFreed (lost.raiseNotice every ⟨.channelState, 0, 255, 2, 3, hiCycle, loCycle⟩)).ports ∧
        ∀ k : SlotIdx, t.slots[k] = (s.returnUnsent.slots[k]).bind Callout.afterStop) ∧
      exec .restoreGap s = exec .referenceLost s) ∧
    (∀ n, s.sup.clock = .internal → s.sup.restore = .measuring n →
      exec .restoreGap s = .next { s with sup := { s.sup with restore := .measuring 0 } }) ∧
    ((∃ n, s.sup.restore = .measuring n ∧ 9830400 ≤ n) → s.sup.clock = .internal → ∀ pins,
      let back := { s with
        sup := { s.sup with clock := .reference, restore := .idle }
        tx := { s.tx with restoreWord := true } }.raiseNotice every
          ⟨.clockRestored, 0, 255, (BitVec.ofNat 16 s.sup.fallbackTicks).extractLsb' 8 8,
            (BitVec.ofNat 16 s.sup.fallbackTicks).extractLsb' 0 8, hiCycle, loCycle⟩
      (s.channel.state ≠ .suspended → exec (.restored pins) s = .next back) ∧
      (s.channel.state = .suspended → exec (.restored pins) s = .next
        (({ back with channel := { back.channel with state := .running } }.raiseNotice every
          ⟨.channelState, 0, 255, 19, 4, hiCycle, loCycle⟩).openCycle true pins)))
end

