-- ==== Sys2Proof/Laws/State.lean ====
section
/-! SUPPORT. What each named update of the state leaves in each field: one lemma for each field and update, true by unfolding. -/

namespace Sys2Proof.Machine

open Sys2Proof

variable (s : State)

/-! ### setPort -/

@[simp] theorem State.setPort_pending (p : Port) (x : PortState) : (s.setPort p x).pending = s.pending := rfl
@[simp] theorem State.setPort_edgesRead (p : Port) (x : PortState) : (s.setPort p x).edgesRead = s.edgesRead := rfl
@[simp] theorem State.setPort_roster (p : Port) (x : PortState) : (s.setPort p x).roster = s.roster := rfl
@[simp] theorem State.setPort_plans (p : Port) (x : PortState) : (s.setPort p x).plans = s.plans := rfl
@[simp] theorem State.setPort_slots (p : Port) (x : PortState) : (s.setPort p x).slots = s.slots := rfl
@[simp] theorem State.setPort_serialCounter (p : Port) (x : PortState) :
    (s.setPort p x).serialCounter = s.serialCounter := rfl
@[simp] theorem State.setPort_handOffs (p : Port) (x : PortState) : (s.setPort p x).handOffs = s.handOffs := rfl
@[simp] theorem State.setPort_channel (p : Port) (x : PortState) : (s.setPort p x).channel = s.channel := rfl
@[simp] theorem State.setPort_tx (p : Port) (x : PortState) : (s.setPort p x).tx = s.tx := rfl
@[simp] theorem State.setPort_rx (p : Port) (x : PortState) : (s.setPort p x).rx = s.rx := rfl
@[simp] theorem State.setPort_ports (p : Port) (x : PortState) : (s.setPort p x).ports = s.ports.put p x := rfl
@[simp] theorem State.setPort_sup (p : Port) (x : PortState) : (s.setPort p x).sup = s.sup := rfl
@[simp] theorem State.setPort_inputs (p : Port) (x : PortState) : (s.setPort p x).inputs = s.inputs := rfl

/-! ### respond -/

@[simp] theorem State.respond_pending (p : Port) (bytes : List Byte) : (s.respond p bytes).pending = s.pending := rfl
@[simp] theorem State.respond_edgesRead (p : Port) (bytes : List Byte) : (s.respond p bytes).edgesRead = s.edgesRead := rfl
@[simp] theorem State.respond_roster (p : Port) (bytes : List Byte) : (s.respond p bytes).roster = s.roster := rfl
@[simp] theorem State.respond_plans (p : Port) (bytes : List Byte) : (s.respond p bytes).plans = s.plans := rfl
@[simp] theorem State.respond_slots (p : Port) (bytes : List Byte) : (s.respond p bytes).slots = s.slots := rfl
@[simp] theorem State.respond_serialCounter (p : Port) (bytes : List Byte) :
    (s.respond p bytes).serialCounter = s.serialCounter := rfl
@[simp] theorem State.respond_handOffs (p : Port) (bytes : List Byte) : (s.respond p bytes).handOffs = s.handOffs := rfl
@[simp] theorem State.respond_channel (p : Port) (bytes : List Byte) : (s.respond p bytes).channel = s.channel := rfl
@[simp] theorem State.respond_tx (p : Port) (bytes : List Byte) : (s.respond p bytes).tx = s.tx := rfl
@[simp] theorem State.respond_rx (p : Port) (bytes : List Byte) : (s.respond p bytes).rx = s.rx := rfl
@[simp] theorem State.respond_ports (p : Port) (bytes : List Byte) :
    (s.respond p bytes).ports = s.ports.put p { s.port p with frame := .responding bytes } := rfl
@[simp] theorem State.respond_sup (p : Port) (bytes : List Byte) : (s.respond p bytes).sup = s.sup := rfl
@[simp] theorem State.respond_inputs (p : Port) (bytes : List Byte) : (s.respond p bytes).inputs = s.inputs := rfl

/-! ### raiseNotice -/

@[simp] theorem State.raiseNotice_pending (route : PortSet) (n : Notice) : (s.raiseNotice route n).pending = s.pending := rfl
@[simp] theorem State.raiseNotice_edgesRead (route : PortSet) (n : Notice) :
    (s.raiseNotice route n).edgesRead = s.edgesRead := rfl
@[simp] theorem State.raiseNotice_roster (route : PortSet) (n : Notice) : (s.raiseNotice route n).roster = s.roster := rfl
@[simp] theorem State.raiseNotice_plans (route : PortSet) (n : Notice) : (s.raiseNotice route n).plans = s.plans := rfl
@[simp] theorem State.raiseNotice_slots (route : PortSet) (n : Notice) : (s.raiseNotice route n).slots = s.slots := rfl
@[simp] theorem State.raiseNotice_serialCounter (route : PortSet) (n : Notice) :
    (s.raiseNotice route n).serialCounter = s.serialCounter := rfl
@[simp] theorem State.raiseNotice_handOffs (route : PortSet) (n : Notice) :
    (s.raiseNotice route n).handOffs = s.handOffs := rfl
@[simp] theorem State.raiseNotice_channel (route : PortSet) (n : Notice) : (s.raiseNotice route n).channel = s.channel := rfl
@[simp] theorem State.raiseNotice_tx (route : PortSet) (n : Notice) : (s.raiseNotice route n).tx = s.tx := rfl
@[simp] theorem State.raiseNotice_rx (route : PortSet) (n : Notice) : (s.raiseNotice route n).rx = s.rx := rfl
@[simp] theorem State.raiseNotice_sup (route : PortSet) (n : Notice) : (s.raiseNotice route n).sup = s.sup := rfl
@[simp] theorem State.raiseNotice_inputs (route : PortSet) (n : Notice) : (s.raiseNotice route n).inputs = s.inputs := rfl

/-! ### setMember -/

@[simp] theorem State.setMember_pending (m : MemberIdx) (x : Member) : (s.setMember m x).pending = s.pending := rfl
@[simp] theorem State.setMember_edgesRead (m : MemberIdx) (x : Member) : (s.setMember m x).edgesRead = s.edgesRead := rfl
@[simp] theorem State.setMember_roster (m : MemberIdx) (x : Member) : (s.setMember m x).roster = s.roster.set m x := rfl
@[simp] theorem State.setMember_plans (m : MemberIdx) (x : Member) : (s.setMember m x).plans = s.plans := rfl
@[simp] theorem State.setMember_slots (m : MemberIdx) (x : Member) : (s.setMember m x).slots = s.slots := rfl
@[simp] theorem State.setMember_serialCounter (m : MemberIdx) (x : Member) :
    (s.setMember m x).serialCounter = s.serialCounter := rfl
@[simp] theorem State.setMember_handOffs (m : MemberIdx) (x : Member) : (s.setMember m x).handOffs = s.handOffs := rfl
@[simp] theorem State.setMember_channel (m : MemberIdx) (x : Member) : (s.setMember m x).channel = s.channel := rfl
@[simp] theorem State.setMember_tx (m : MemberIdx) (x : Member) : (s.setMember m x).tx = s.tx := rfl
@[simp] theorem State.setMember_rx (m : MemberIdx) (x : Member) : (s.setMember m x).rx = s.rx := rfl
@[simp] theorem State.setMember_ports (m : MemberIdx) (x : Member) : (s.setMember m x).ports = s.ports := rfl
@[simp] theorem State.setMember_sup (m : MemberIdx) (x : Member) : (s.setMember m x).sup = s.sup := rfl
@[simp] theorem State.setMember_inputs (m : MemberIdx) (x : Member) : (s.setMember m x).inputs = s.inputs := rfl

/-! ### engage -/

@[simp] theorem State.engage_pending (m : MemberIdx) (e : Engagement) : (s.engage m e).pending = s.pending := rfl
@[simp] theorem State.engage_edgesRead (m : MemberIdx) (e : Engagement) : (s.engage m e).edgesRead = s.edgesRead := rfl
@[simp] theorem State.engage_roster (m : MemberIdx) (e : Engagement) :
    (s.engage m e).roster = s.roster.set m { s.roster[m] with engagement := e } := rfl
@[simp] theorem State.engage_plans (m : MemberIdx) (e : Engagement) : (s.engage m e).plans = s.plans := rfl
@[simp] theorem State.engage_slots (m : MemberIdx) (e : Engagement) : (s.engage m e).slots = s.slots := rfl
@[simp] theorem State.engage_serialCounter (m : MemberIdx) (e : Engagement) :
    (s.engage m e).serialCounter = s.serialCounter := rfl
@[simp] theorem State.engage_handOffs (m : MemberIdx) (e : Engagement) : (s.engage m e).handOffs = s.handOffs := rfl
@[simp] theorem State.engage_channel (m : MemberIdx) (e : Engagement) : (s.engage m e).channel = s.channel := rfl
@[simp] theorem State.engage_tx (m : MemberIdx) (e : Engagement) : (s.engage m e).tx = s.tx := rfl
@[simp] theorem State.engage_rx (m : MemberIdx) (e : Engagement) : (s.engage m e).rx = s.rx := rfl
@[simp] theorem State.engage_ports (m : MemberIdx) (e : Engagement) : (s.engage m e).ports = s.ports := rfl
@[simp] theorem State.engage_sup (m : MemberIdx) (e : Engagement) : (s.engage m e).sup = s.sup := rfl
@[simp] theorem State.engage_inputs (m : MemberIdx) (e : Engagement) : (s.engage m e).inputs = s.inputs := rfl

/-! ### disengage -/

@[simp] theorem State.disengage_pending (which : Engagement → Bool) : (s.disengage which).pending = s.pending := rfl
@[simp] theorem State.disengage_edgesRead (which : Engagement → Bool) : (s.disengage which).edgesRead = s.edgesRead := rfl
@[simp] theorem State.disengage_plans (which : Engagement → Bool) : (s.disengage which).plans = s.plans := rfl
@[simp] theorem State.disengage_slots (which : Engagement → Bool) : (s.disengage which).slots = s.slots := rfl
@[simp] theorem State.disengage_serialCounter (which : Engagement → Bool) :
    (s.disengage which).serialCounter = s.serialCounter := rfl
@[simp] theorem State.disengage_handOffs (which : Engagement → Bool) : (s.disengage which).handOffs = s.handOffs := rfl
@[simp] theorem State.disengage_channel (which : Engagement → Bool) : (s.disengage which).channel = s.channel := rfl
@[simp] theorem State.disengage_tx (which : Engagement → Bool) : (s.disengage which).tx = s.tx := rfl
@[simp] theorem State.disengage_rx (which : Engagement → Bool) : (s.disengage which).rx = s.rx := rfl
@[simp] theorem State.disengage_ports (which : Engagement → Bool) : (s.disengage which).ports = s.ports := rfl
@[simp] theorem State.disengage_sup (which : Engagement → Bool) : (s.disengage which).sup = s.sup := rfl
@[simp] theorem State.disengage_inputs (which : Engagement → Bool) : (s.disengage which).inputs = s.inputs := rfl

/-! ### setPlan -/

@[simp] theorem State.setPlan_pending (i : PlanIdx) (x : Plan) : (s.setPlan i x).pending = s.pending := rfl
@[simp] theorem State.setPlan_edgesRead (i : PlanIdx) (x : Plan) : (s.setPlan i x).edgesRead = s.edgesRead := rfl
@[simp] theorem State.setPlan_roster (i : PlanIdx) (x : Plan) : (s.setPlan i x).roster = s.roster := rfl
@[simp] theorem State.setPlan_plans (i : PlanIdx) (x : Plan) : (s.setPlan i x).plans = s.plans.set i x := rfl
@[simp] theorem State.setPlan_slots (i : PlanIdx) (x : Plan) : (s.setPlan i x).slots = s.slots := rfl
@[simp] theorem State.setPlan_serialCounter (i : PlanIdx) (x : Plan) : (s.setPlan i x).serialCounter = s.serialCounter := rfl
@[simp] theorem State.setPlan_handOffs (i : PlanIdx) (x : Plan) : (s.setPlan i x).handOffs = s.handOffs := rfl
@[simp] theorem State.setPlan_channel (i : PlanIdx) (x : Plan) : (s.setPlan i x).channel = s.channel := rfl
@[simp] theorem State.setPlan_tx (i : PlanIdx) (x : Plan) : (s.setPlan i x).tx = s.tx := rfl
@[simp] theorem State.setPlan_rx (i : PlanIdx) (x : Plan) : (s.setPlan i x).rx = s.rx := rfl
@[simp] theorem State.setPlan_ports (i : PlanIdx) (x : Plan) : (s.setPlan i x).ports = s.ports := rfl
@[simp] theorem State.setPlan_sup (i : PlanIdx) (x : Plan) : (s.setPlan i x).sup = s.sup := rfl
@[simp] theorem State.setPlan_inputs (i : PlanIdx) (x : Plan) : (s.setPlan i x).inputs = s.inputs := rfl

/-! ### takeUpPlan -/

@[simp] theorem State.takeUpPlan_pending (i : PlanIdx) : (s.takeUpPlan i).pending = s.pending := rfl
@[simp] theorem State.takeUpPlan_edgesRead (i : PlanIdx) : (s.takeUpPlan i).edgesRead = s.edgesRead := rfl
@[simp] theorem State.takeUpPlan_roster (i : PlanIdx) : (s.takeUpPlan i).roster = s.roster := rfl
@[simp] theorem State.takeUpPlan_plans (i : PlanIdx) :
    (s.takeUpPlan i).plans = s.plans.set i { s.plans[i] with usage := s.plans[i].usage + 1 } := rfl
@[simp] theorem State.takeUpPlan_slots (i : PlanIdx) : (s.takeUpPlan i).slots = s.slots := rfl
@[simp] theorem State.takeUpPlan_serialCounter (i : PlanIdx) : (s.takeUpPlan i).serialCounter = s.serialCounter := rfl
@[simp] theorem State.takeUpPlan_handOffs (i : PlanIdx) : (s.takeUpPlan i).handOffs = s.handOffs := rfl
@[simp] theorem State.takeUpPlan_channel (i : PlanIdx) : (s.takeUpPlan i).channel = s.channel := rfl
@[simp] theorem State.takeUpPlan_tx (i : PlanIdx) : (s.takeUpPlan i).tx = s.tx := rfl
@[simp] theorem State.takeUpPlan_rx (i : PlanIdx) : (s.takeUpPlan i).rx = s.rx := rfl
@[simp] theorem State.takeUpPlan_ports (i : PlanIdx) : (s.takeUpPlan i).ports = s.ports := rfl
@[simp] theorem State.takeUpPlan_sup (i : PlanIdx) : (s.takeUpPlan i).sup = s.sup := rfl
@[simp] theorem State.takeUpPlan_inputs (i : PlanIdx) : (s.takeUpPlan i).inputs = s.inputs := rfl

/-! ### leavePlan -/

@[simp] theorem State.leavePlan_pending (i : PlanIdx) : (s.leavePlan i).pending = s.pending := rfl
@[simp] theorem State.leavePlan_edgesRead (i : PlanIdx) : (s.leavePlan i).edgesRead = s.edgesRead := rfl
@[simp] theorem State.leavePlan_roster (i : PlanIdx) : (s.leavePlan i).roster = s.roster := rfl
@[simp] theorem State.leavePlan_plans (i : PlanIdx) :
    (s.leavePlan i).plans = s.plans.set i { s.plans[i] with usage := s.plans[i].usage - 1 } := rfl
@[simp] theorem State.leavePlan_slots (i : PlanIdx) : (s.leavePlan i).slots = s.slots := rfl
@[simp] theorem State.leavePlan_serialCounter (i : PlanIdx) : (s.leavePlan i).serialCounter = s.serialCounter := rfl
@[simp] theorem State.leavePlan_handOffs (i : PlanIdx) : (s.leavePlan i).handOffs = s.handOffs := rfl
@[simp] theorem State.leavePlan_channel (i : PlanIdx) : (s.leavePlan i).channel = s.channel := rfl
@[simp] theorem State.leavePlan_tx (i : PlanIdx) : (s.leavePlan i).tx = s.tx := rfl
@[simp] theorem State.leavePlan_rx (i : PlanIdx) : (s.leavePlan i).rx = s.rx := rfl
@[simp] theorem State.leavePlan_ports (i : PlanIdx) : (s.leavePlan i).ports = s.ports := rfl
@[simp] theorem State.leavePlan_sup (i : PlanIdx) : (s.leavePlan i).sup = s.sup := rfl
@[simp] theorem State.leavePlan_inputs (i : PlanIdx) : (s.leavePlan i).inputs = s.inputs := rfl

/-! ### setSlot -/

@[simp] theorem State.setSlot_pending (k : SlotIdx) (x : Option Callout) : (s.setSlot k x).pending = s.pending := rfl
@[simp] theorem State.setSlot_edgesRead (k : SlotIdx) (x : Option Callout) : (s.setSlot k x).edgesRead = s.edgesRead := rfl
@[simp] theorem State.setSlot_roster (k : SlotIdx) (x : Option Callout) : (s.setSlot k x).roster = s.roster := rfl
@[simp] theorem State.setSlot_plans (k : SlotIdx) (x : Option Callout) : (s.setSlot k x).plans = s.plans := rfl
@[simp] theorem State.setSlot_slots (k : SlotIdx) (x : Option Callout) : (s.setSlot k x).slots = s.slots.set k x := rfl
@[simp] theorem State.setSlot_serialCounter (k : SlotIdx) (x : Option Callout) :
    (s.setSlot k x).serialCounter = s.serialCounter := rfl
@[simp] theorem State.setSlot_handOffs (k : SlotIdx) (x : Option Callout) : (s.setSlot k x).handOffs = s.handOffs := rfl
@[simp] theorem State.setSlot_channel (k : SlotIdx) (x : Option Callout) : (s.setSlot k x).channel = s.channel := rfl
@[simp] theorem State.setSlot_tx (k : SlotIdx) (x : Option Callout) : (s.setSlot k x).tx = s.tx := rfl
@[simp] theorem State.setSlot_rx (k : SlotIdx) (x : Option Callout) : (s.setSlot k x).rx = s.rx := rfl
@[simp] theorem State.setSlot_ports (k : SlotIdx) (x : Option Callout) : (s.setSlot k x).ports = s.ports := rfl
@[simp] theorem State.setSlot_sup (k : SlotIdx) (x : Option Callout) : (s.setSlot k x).sup = s.sup := rfl
@[simp] theorem State.setSlot_inputs (k : SlotIdx) (x : Option Callout) : (s.setSlot k x).inputs = s.inputs := rfl

/-! ### unkey -/

@[simp] theorem State.unkey_pending : (s.unkey).pending = s.pending := rfl
@[simp] theorem State.unkey_edgesRead : (s.unkey).edgesRead = s.edgesRead := rfl
@[simp] theorem State.unkey_roster : (s.unkey).roster = s.roster := rfl
@[simp] theorem State.unkey_plans : (s.unkey).plans = s.plans := rfl
@[simp] theorem State.unkey_slots : (s.unkey).slots = s.slots := rfl
@[simp] theorem State.unkey_serialCounter : (s.unkey).serialCounter = s.serialCounter := rfl
@[simp] theorem State.unkey_handOffs : (s.unkey).handOffs = s.handOffs := rfl
@[simp] theorem State.unkey_channel : (s.unkey).channel = { s.channel with keyed := none } := rfl
@[simp] theorem State.unkey_tx :
    (s.unkey).tx = { s.tx with frame := [], assembled := none, tone := none, sample := Config.midScale } := rfl
@[simp] theorem State.unkey_rx : (s.unkey).rx = s.rx := rfl
@[simp] theorem State.unkey_ports : (s.unkey).ports = s.ports := rfl
@[simp] theorem State.unkey_sup : (s.unkey).sup = s.sup := rfl
@[simp] theorem State.unkey_inputs : (s.unkey).inputs = s.inputs := rfl

/-! ### key -/

@[simp] theorem State.key_pending (site : Site) : (s.key site).pending = s.pending := rfl
@[simp] theorem State.key_edgesRead (site : Site) : (s.key site).edgesRead = s.edgesRead := rfl
@[simp] theorem State.key_roster (site : Site) : (s.key site).roster = s.roster := rfl
@[simp] theorem State.key_plans (site : Site) : (s.key site).plans = s.plans := rfl
@[simp] theorem State.key_slots (site : Site) : (s.key site).slots = s.slots := rfl
@[simp] theorem State.key_serialCounter (site : Site) : (s.key site).serialCounter = s.serialCounter := rfl
@[simp] theorem State.key_handOffs (site : Site) : (s.key site).handOffs = s.handOffs := rfl
@[simp] theorem State.key_channel (site : Site) : (s.key site).channel = { s.channel with keyed := some site } := rfl
@[simp] theorem State.key_rx (site : Site) : (s.key site).rx = s.rx := rfl
@[simp] theorem State.key_ports (site : Site) : (s.key site).ports = s.ports := rfl
@[simp] theorem State.key_sup (site : Site) : (s.key site).sup = s.sup := rfl
@[simp] theorem State.key_inputs (site : Site) : (s.key site).inputs = s.inputs := rfl

/-! ### markItem -/

@[simp] theorem State.markItem_pending (e : PlannedItem) (st : ItemState) : (s.markItem e st).pending = s.pending := rfl
@[simp] theorem State.markItem_edgesRead (e : PlannedItem) (st : ItemState) : (s.markItem e st).edgesRead = s.edgesRead := rfl
@[simp] theorem State.markItem_roster (e : PlannedItem) (st : ItemState) : (s.markItem e st).roster = s.roster := rfl
@[simp] theorem State.markItem_plans (e : PlannedItem) (st : ItemState) : (s.markItem e st).plans = s.plans := rfl
@[simp] theorem State.markItem_slots (e : PlannedItem) (st : ItemState) : (s.markItem e st).slots = s.slots := rfl
@[simp] theorem State.markItem_serialCounter (e : PlannedItem) (st : ItemState) :
    (s.markItem e st).serialCounter = s.serialCounter := rfl
@[simp] theorem State.markItem_handOffs (e : PlannedItem) (st : ItemState) : (s.markItem e st).handOffs = s.handOffs := rfl
@[simp] theorem State.markItem_tx (e : PlannedItem) (st : ItemState) : (s.markItem e st).tx = s.tx := rfl
@[simp] theorem State.markItem_rx (e : PlannedItem) (st : ItemState) : (s.markItem e st).rx = s.rx := rfl
@[simp] theorem State.markItem_ports (e : PlannedItem) (st : ItemState) : (s.markItem e st).ports = s.ports := rfl
@[simp] theorem State.markItem_sup (e : PlannedItem) (st : ItemState) : (s.markItem e st).sup = s.sup := rfl
@[simp] theorem State.markItem_inputs (e : PlannedItem) (st : ItemState) : (s.markItem e st).inputs = s.inputs := rfl

/-! ### free -/

@[simp] theorem State.free_pending (k : SlotIdx) (c : Callout) (why : FreedReason) :
    (s.free k c why).pending = s.pending := rfl
@[simp] theorem State.free_edgesRead (k : SlotIdx) (c : Callout) (why : FreedReason) :
    (s.free k c why).edgesRead = s.edgesRead := rfl
@[simp] theorem State.free_roster (k : SlotIdx) (c : Callout) (why : FreedReason) : (s.free k c why).roster = s.roster := rfl
@[simp] theorem State.free_plans (k : SlotIdx) (c : Callout) (why : FreedReason) : (s.free k c why).plans = s.plans := rfl
@[simp] theorem State.free_slots (k : SlotIdx) (c : Callout) (why : FreedReason) :
    (s.free k c why).slots = s.slots.set k none := rfl
@[simp] theorem State.free_serialCounter (k : SlotIdx) (c : Callout) (why : FreedReason) :
    (s.free k c why).serialCounter = s.serialCounter := rfl
@[simp] theorem State.free_handOffs (k : SlotIdx) (c : Callout) (why : FreedReason) :
    (s.free k c why).handOffs = s.handOffs := rfl
@[simp] theorem State.free_channel (k : SlotIdx) (c : Callout) (why : FreedReason) :
    (s.free k c why).channel = s.channel := rfl
@[simp] theorem State.free_tx (k : SlotIdx) (c : Callout) (why : FreedReason) : (s.free k c why).tx = s.tx := rfl
@[simp] theorem State.free_rx (k : SlotIdx) (c : Callout) (why : FreedReason) : (s.free k c why).rx = s.rx := rfl
@[simp] theorem State.free_ports (k : SlotIdx) (c : Callout) (why : FreedReason) :
    (s.free k c why).ports = (s.raiseNotice (s.interested c) (freedNotice c why)).ports := rfl
@[simp] theorem State.free_sup (k : SlotIdx) (c : Callout) (why : FreedReason) : (s.free k c why).sup = s.sup := rfl
@[simp] theorem State.free_inputs (k : SlotIdx) (c : Callout) (why : FreedReason) : (s.free k c why).inputs = s.inputs := rfl

/-! ### Ports -/

@[simp] theorem Ports.get_put_self (q : Ports) (p : Port) (x : PortState) : (q.put p x).get p = x := by
  cases p <;> rfl

@[simp] theorem Ports.get_put_other (q : Ports) {p r : Port} (x : PortState) (h : r ≠ p) : (q.put p x).get r = q.get r := by
  cases p <;> cases r <;> first | rfl | exact absurd rfl h

@[simp] theorem Ports.put_get (q : Ports) (p : Port) : q.put p (q.get p) = q := by cases p <;> rfl

@[simp] theorem State.port_setPort_self (p : Port) (x : PortState) : (s.setPort p x).port p = x :=
  Ports.get_put_self _ _ _

@[simp] theorem State.port_setPort_other {p r : Port} (x : PortState) (h : r ≠ p) : (s.setPort p x).port r = s.port r :=
  Ports.get_put_other _ _ h

@[simp] theorem State.port_respond_self (p : Port) (bytes : List Byte) :
    (s.respond p bytes).port p = { s.port p with frame := .responding bytes } := Ports.get_put_self _ _ _

@[simp] theorem State.port_respond_other {p r : Port} (bytes : List Byte) (h : r ≠ p) :
    (s.respond p bytes).port r = s.port r := Ports.get_put_other _ _ h

/-- A port after a notice: offered it when the route has the port, and unchanged otherwise (R173). -/
theorem State.port_raiseNotice (route : PortSet) (n : Notice) (p : Port) :
    (s.raiseNotice route n).port p = if route.has p then (s.port p).offered s.testing n else s.port p := by
  cases p <;> rfl

/-- The fields of a port other than its queue and its mark are not an offer's concern. -/
@[simp] theorem PortState.offered_cls (x : PortState) (testing : Bool) (n : Notice) : (x.offered testing n).cls = x.cls := by
  unfold PortState.offered; split <;> [rfl; split <;> rfl]

@[simp] theorem PortState.offered_frame (x : PortState) (testing : Bool) (n : Notice) :
    (x.offered testing n).frame = x.frame := by
  unfold PortState.offered; split <;> [rfl; split <;> rfl]

@[simp] theorem PortState.offered_selLow (x : PortState) (testing : Bool) (n : Notice) :
    (x.offered testing n).selLow = x.selLow := by
  unfold PortState.offered; split <;> [rfl; split <;> rfl]

/-- An offer keeps a queue of at most 32 notices so (R174). -/
theorem PortState.offered_bounded (x : PortState) (testing : Bool) (n : Notice) (h : x.queue.length ≤ 32) :
    (x.offered testing n).queue.length ≤ 32 := by
  unfold PortState.offered
  split
  · exact h
  · split
    · simp only [List.length_append, List.length_singleton]; simp only [Config.queueCapacity] at *; omega
    · exact h

@[simp] theorem State.port_raiseNotice_cls (route : PortSet) (n : Notice) (p : Port) :
    ((s.raiseNotice route n).port p).cls = (s.port p).cls := by
  rw [State.port_raiseNotice]; split <;> simp

@[simp] theorem State.port_raiseNotice_frame (route : PortSet) (n : Notice) (p : Port) :
    ((s.raiseNotice route n).port p).frame = (s.port p).frame := by
  rw [State.port_raiseNotice]; split <;> simp

@[simp] theorem State.stations_raiseNotice (route : PortSet) (n : Notice) : (s.raiseNotice route n).stations = s.stations := by
  have a := s.port_raiseNotice_cls route n .a
  have b := s.port_raiseNotice_cls route n .b
  have c := s.port_raiseNotice_cls route n .c
  simp only [State.port, Ports.get] at a b c
  simp only [State.stations, a, b, c]

/-! ### Members -/

@[simp] theorem State.member_setMember_self (m : MemberIdx) (x : Member) : (s.setMember m x).member m = x := by
  simp [State.member, State.setMember]

@[simp] theorem State.member_setMember_other {m k : MemberIdx} (x : Member) (h : k ≠ m) :
    (s.setMember m x).member k = s.member k := by
  simp [State.member, State.setMember, Fin.val_ne_of_ne (Ne.symm h)]

@[simp] theorem State.member_engage_self (m : MemberIdx) (e : Engagement) :
    (s.engage m e).member m = { s.member m with engagement := e } := State.member_setMember_self _ _ _

@[simp] theorem State.member_engage_other {m k : MemberIdx} (e : Engagement) (h : k ≠ m) :
    (s.engage m e).member k = s.member k := State.member_setMember_other _ _ h

/-- A member after every engagement that `which` admits has been made Free. -/
theorem State.member_disengage (which : Engagement → Bool) (m : MemberIdx) :
    (s.disengage which).member m =
      if which (s.member m).engagement then { s.member m with engagement := .free } else s.member m := by
  show (s.roster.map _)[m.val] = _
  rw [Vector.getElem_map]
  rfl

/-- A member's address does not depend on its engagement. -/
@[simp] theorem Member.address_engagement (x : Member) (e : Engagement) :
    ({ x with engagement := e } : Member).address = x.address := rfl

/-! ### Slots and plans -/

@[simp] theorem State.slots_setSlot_self (k : SlotIdx) (x : Option Callout) : (s.setSlot k x).slots[k] = x := by
  simp [State.setSlot]

@[simp] theorem State.slots_setSlot_other {k j : SlotIdx} (x : Option Callout) (h : j ≠ k) :
    (s.setSlot k x).slots[j] = s.slots[j] := by
  simp [State.setSlot, Fin.val_ne_of_ne (Ne.symm h)]

@[simp] theorem State.plans_setPlan_self (i : PlanIdx) (x : Plan) : (s.setPlan i x).plans[i] = x := by
  simp [State.setPlan]

@[simp] theorem State.plans_setPlan_other {i j : PlanIdx} (x : Plan) (h : j ≠ i) :
    (s.setPlan i x).plans[j] = s.plans[j] := by
  simp [State.setPlan, Fin.val_ne_of_ne (Ne.symm h)]

end Sys2Proof.Machine
end

