-- ==== Sys2Proof/Laws/Ops.lean ====
section
/-! SUPPORT. What the operations of Machine/Ops.lean can do, said once each: sorting, the reading of indexes, finding a slot,
and the taking of a request. -/

namespace Sys2Proof.Machine

open Sys2Proof

/-! ### The bits of a frame (R164) -/

/-- Eight bits of a byte, the most significant first, spell that byte. -/
theorem byteOfBits_getMsbD (b : Byte) :
    byteOfBits (b.getMsbD 0) (b.getMsbD 1) (b.getMsbD 2) (b.getMsbD 3) (b.getMsbD 4) (b.getMsbD 5) (b.getMsbD 6) (b.getMsbD 7) =
      b := by
  revert b; decide +kernel

/-- Bits short of a byte spell none. -/
theorem bytesOfBits_short (bits : List Bool) (h : bits.length < 8) : bytesOfBits bits = [] := by
  rcases bits with _ | ⟨_, _ | ⟨_, _ | ⟨_, _ | ⟨_, _ | ⟨_, _ | ⟨_, _ | ⟨_, _ | ⟨_, _⟩⟩⟩⟩⟩⟩⟩⟩ <;>
    first | rfl | (simp only [List.length_cons] at h; omega)

/-- The bits of bytes on the line, with fewer than eight after them, spell those bytes. -/
theorem bytesOfBits_bitsOfBytes (bytes : List Byte) (tail : List Bool) (h : tail.length < 8) :
    bytesOfBits (bitsOfBytes bytes ++ tail) = bytes := by
  induction bytes with
  | nil => exact bytesOfBits_short tail h
  | cons b rest ih =>
    have : bitsOfBytes (b :: rest) ++ tail = b.getMsbD 0 :: b.getMsbD 1 :: b.getMsbD 2 :: b.getMsbD 3 :: b.getMsbD 4 ::
        b.getMsbD 5 :: b.getMsbD 6 :: b.getMsbD 7 :: (bitsOfBytes rest ++ tail) := rfl
    rw [this, bytesOfBits, byteOfBits_getMsbD, ih]

/-! ### Lists -/

theorem insertBy_perm {α : Type} (lt : α → α → Bool) (x : α) (l : List α) : (insertBy lt x l).Perm (x :: l) := by
  induction l with
  | nil => exact List.Perm.refl _
  | cons y ys ih =>
    unfold insertBy
    split
    · exact (ih.cons y).trans (List.Perm.swap x y ys)
    · exact List.Perm.refl _

/-- Sorting only reorders. -/
theorem sortBy_perm {α : Type} (lt : α → α → Bool) (l : List α) : (sortBy lt l).Perm l := by
  induction l with
  | nil => exact List.Perm.refl _
  | cons x xs ih => exact (insertBy_perm lt x _).trans (ih.cons x)

@[simp] theorem mem_sortBy {α : Type} (lt : α → α → Bool) (l : List α) (x : α) : x ∈ sortBy lt l ↔ x ∈ l :=
  (sortBy_perm lt l).mem_iff

@[simp] theorem length_sortBy {α : Type} (lt : α → α → Bool) (l : List α) : (sortBy lt l).length = l.length :=
  (sortBy_perm lt l).length_eq

/-- A list sorted by a relation is in order: no element stands before one that it must follow. `le` is what standing before
means, for a comparison that is total up to `le`. -/
theorem sortBy_pairwise {α : Type} (lt : α → α → Bool) (le : α → α → Prop) (l : List α)
    (hlt : ∀ x y, lt y x = true → le y x) (hge : ∀ x y, lt y x = false → le x y)
    (htrans : ∀ x y z, le x y → le y z → le x z) : (sortBy lt l).Pairwise le := by
  induction l with
  | nil => exact List.Pairwise.nil
  | cons x xs ih =>
    show (insertBy lt x (sortBy lt xs)).Pairwise le
    generalize sortBy lt xs = ys at ih
    induction ys with
    | nil => exact List.pairwise_singleton _ _
    | cons y ys ihy =>
      rw [List.pairwise_cons] at ih
      unfold insertBy
      split
      · rename_i h
        refine List.pairwise_cons.2 ⟨fun z hz => ?_, ihy ih.2⟩
        rcases List.mem_cons.1 ((insertBy_perm lt x ys).mem_iff.1 hz) with rfl | hz
        · exact hlt _ _ h
        · exact ih.1 z hz
      · rename_i h
        have hxy : le x y := hge _ _ (by simpa using h)
        refine List.pairwise_cons.2 ⟨fun z hz => ?_, List.pairwise_cons.2 ih⟩
        rcases List.mem_cons.1 hz with rfl | hz
        · exact hxy
        · exact htrans _ _ _ hxy (ih.1 z hz)

theorem mem_insertNew {α : Type} [DecidableEq α] (x y : α) (l : List α) : y ∈ insertNew x l ↔ y = x ∨ y ∈ l := by
  unfold insertNew
  split
  · rename_i h
    exact ⟨Or.inr, fun hy => hy.elim (fun e => e ▸ h) id⟩
  · simp [or_comm]

/-- An insertion repeats nothing and keeps the list before it (R45). -/
theorem insertNew_nodup {α : Type} [DecidableEq α] (x : α) (l : List α) :
    (l.Nodup → (insertNew x l).Nodup) ∧ l <+: insertNew x l := by
  unfold insertNew
  split
  · exact ⟨id, List.prefix_rfl⟩
  · rename_i h
    refine ⟨fun hl => ?_, List.prefix_append _ _⟩
    simp only [List.nodup_append, List.nodup_singleton, List.mem_singleton, forall_eq]
    exact ⟨hl, trivial, fun a ha e => h (e ▸ ha)⟩

/-- So do the insertions of a list, whose elements then stand in it beside those before (R45). -/
theorem foldl_insertNew {α : Type} [DecidableEq α] (xs l : List α) :
    let r := xs.foldl (fun l x => insertNew x l) l
    (l.Nodup → r.Nodup) ∧ l <+: r ∧ ∀ y, y ∈ r ↔ y ∈ xs ∨ y ∈ l := by
  induction xs generalizing l with
  | nil => simp
  | cons x xs ih =>
    obtain ⟨h1, h2, h3⟩ := ih (insertNew x l)
    obtain ⟨g1, g2⟩ := insertNew_nodup x l
    refine ⟨fun h => h1 (g1 h), g2.trans h2, fun y => ?_⟩
    simp only [List.foldl_cons, h3, mem_insertNew, List.mem_cons]
    tauto

/-! ### Indexes -/

@[simp] theorem toNat_byteOf {n : Nat} (h : n < 256) : (byteOf n).toNat = n := by
  simp [byteOf, Nat.mod_eq_of_lt h]

/-- The byte of an index reads as that index. -/
theorem readIndex_byteOf {n : Nat} (hn : n ≤ 256) (m : Fin n) : readIndex n (byteOf m) = some m := by
  have h : (byteOf m.val).toNat = m.val := toNat_byteOf (Nat.lt_of_lt_of_le m.isLt hn)
  simp [readIndex, h]

@[simp] theorem readIndex_member (m : MemberIdx) : readIndex 96 (byteOf m) = some m := readIndex_byteOf (by decide) m
@[simp] theorem readIndex_plan (i : PlanIdx) : readIndex 16 (byteOf i) = some i := readIndex_byteOf (by decide) i
@[simp] theorem readIndex_step (j : StepIdx) : readIndex 8 (byteOf j) = some j := readIndex_byteOf (by decide) j
@[simp] theorem readIndex_tone (i : ToneIdx) : readIndex 32 (byteOf i) = some i := readIndex_byteOf (by decide) i

/-- A byte beyond an index range reads as none. -/
theorem readIndex_none {n : Nat} {b : Byte} (h : n ≤ b.toNat) : readIndex n b = none := by
  simp [readIndex, Nat.not_lt.2 h]

/-- An index read from a byte is the byte's value. -/
theorem readIndex_some {n : Nat} {b : Byte} {i : Fin n} (h : readIndex n b = some i) : b.toNat = i.val := by
  unfold readIndex at h
  split at h
  · cases h; rfl
  · cases h

/-! ### Slots -/

/-- A slot found holds the callout found, and it is wanted. -/
theorem State.findSlot_some {s : State} {wanted : Callout → Bool} {k : SlotIdx} {c : Callout}
    (h : s.findSlot wanted = some (k, c)) : s.slots[k] = some c ∧ wanted c = true := by
  unfold State.findSlot at h
  obtain ⟨j, -, hj⟩ := List.exists_of_findSome?_eq_some h
  revert hj
  cases hs : s.slots[j] with
  | none => simp
  | some d =>
    simp only []
    split
    · rename_i hw
      intro e
      cases e
      exact ⟨hs, hw⟩
    · simp

/-- No slot is found exactly when no callout is wanted. -/
theorem State.findSlot_none {s : State} {wanted : Callout → Bool} :
    s.findSlot wanted = none ↔ ∀ k : SlotIdx, ∀ c ∈ s.slots[k], wanted c = false := by
  unfold State.findSlot
  rw [List.findSome?_eq_none_iff]
  constructor
  · intro h k c hc
    have hk := h k (by simp [allSlots])
    rw [Option.mem_def] at hc
    rw [hc] at hk
    by_contra hw
    simp [hw] at hk
  · intro h k _
    cases hs : s.slots[k] with
    | none => rfl
    | some c => simp [h k c hs]

/-- The slot found is the lowest wanted. -/
theorem State.findSlot_eq {s : State} {wanted : Callout → Bool} {k : SlotIdx} {c : Callout} (hk : s.slots[k] = some c)
    (hw : wanted c = true) (hl : ∀ j : SlotIdx, j < k → ∀ d ∈ s.slots[j], wanted d = false) :
    s.findSlot wanted = some (k, c) := by
  cases hf : s.findSlot wanted with
  | none => rw [State.findSlot_none.1 hf k c hk] at hw; cases hw
  | some x =>
    obtain ⟨j, d⟩ := x
    obtain ⟨hj, hd⟩ := State.findSlot_some hf
    unfold State.findSlot allSlots at hf
    rcases Nat.lt_trichotomy j.val k.val with h | h | h
    · rw [hl j h d hj] at hd; cases hd
    · have : j = k := Fin.ext h
      subst this
      rw [hk] at hj
      cases hj
      rfl
    · exfalso
      obtain ⟨l1, a, l2, hl12, ha, hpre⟩ := List.findSome?_eq_some_iff.1 hf
      have haj : a = j := by
        revert ha
        cases hs : s.slots[a] with
        | none => simp
        | some d' =>
          simp only []
          split
          · intro e; cases e; rfl
          · simp
      subst haj
      have hkmem : k ∈ l1 := by
        have hsorted : (List.finRange 8).Pairwise (· < ·) := by decide
        rw [hl12] at hsorted
        have hin : k ∈ l1 ++ a :: l2 := hl12 ▸ List.mem_finRange k
        rcases List.mem_append.1 hin with hin | hin
        · exact hin
        · rcases List.mem_cons.1 hin with rfl | hin
          · exact absurd h (Nat.lt_irrefl _)
          · have := (List.pairwise_cons.1 (List.pairwise_append.1 hsorted).2.1).1 k hin
            exact absurd h (Nat.lt_asymm this)
      have := hpre k hkmem
      rw [hk] at this
      simp [hw] at this

/-- The callout that a number names holds that number. -/
theorem State.lookup_some {s : State} {n : Half} {k : SlotIdx} {c : Callout} (h : s.lookup n = some (k, c)) :
    s.slots[k] = some c ∧ c.number = n := by
  obtain ⟨hk, hn⟩ := State.findSlot_some h
  exact ⟨hk, by simpa using hn⟩

/-- A number names no callout exactly when no non-Free callout holds it. -/
theorem State.lookup_none {s : State} {n : Half} :
    s.lookup n = none ↔ ∀ k : SlotIdx, ∀ c ∈ s.slots[k], c.number ≠ n := by
  simp [State.lookup, State.findSlot_none]

/-- With distinct tags, a callout is the one its number names (R37). -/
theorem State.lookup_of_tagsDistinct {s : State} (h : s.tagsDistinct) {k : SlotIdx} {c : Callout} (hk : s.slots[k] = some c) :
    s.lookup c.number = some (k, c) := by
  refine State.findSlot_eq hk (by simp) fun j hj d hd => ?_
  by_contra hn
  have hn : d.number = c.number := by simpa using hn
  have := h.2.2 j k d hd c hk (Or.inl (by rw [hn]))
  subst this
  exact absurd hj (Nat.lt_irrefl _)

/-- The Free slot taken is Free. -/
theorem State.freeSlot_some {s : State} {k : SlotIdx} (h : s.freeSlot = some k) : s.slots[k] = none := by
  have := List.find?_some h
  simpa using this

/-- There is no Free slot exactly when every slot holds a callout. -/
theorem State.freeSlot_none {s : State} : s.freeSlot = none ↔ ∀ k : SlotIdx, s.slots[k] ≠ none := by
  simp [State.freeSlot, allSlots]

/-! ### Requests (R165, R167) -/

/-- A request that the checks of R167 let pass is carried out by its own rule. -/
theorem State.takeRequest_taken {s : State} {p : Port} {perm : Permission} {body : State → Taken} (h : s.takes p)
    (hs : perm.needsStation = true → (s.port p).cls = .station) (hw : perm.needsWorking = true → s.faultMode = false) :
    s.takeRequest p perm body = (body s).1.respond p (body s).2 := by
  have hg : s.gate p perm = none := by
    unfold State.gate
    rw [h.2]
    cases hn : perm.needsStation <;> cases hv : perm.needsWorking <;> simp_all
  simp [State.takeRequest, h.1, hg]

/-- A port that takes no request bytes takes no request. -/
theorem State.takeRequest_closed {s : State} {p : Port} {perm : Permission} {body : State → Taken}
    (h : s.listening p = false) : s.takeRequest p perm body = s := by
  simp [State.takeRequest, h]

/-- A request that a check of R167 stops is answered with the check's result. -/
theorem State.takeRequest_stopped {s : State} {p : Port} {perm : Permission} {body : State → Taken} {r : Result}
    (h : s.listening p = true) (hg : s.gate p perm = some r) : s.takeRequest p perm body = s.respond p [r.code] := by
  simp [State.takeRequest, h, hg]

/-- Taking a request is closing, stopping or carrying out: whatever holds in each case holds of the taking. -/
theorem State.takeRequest_cases {s : State} {p : Port} {perm : Permission} {body : State → Taken} {P : State → Prop}
    (idle : P s) (stopped : ∀ r : Result, P (s.respond p [r.code])) (taken : P ((body s).1.respond p (body s).2)) :
    P (s.takeRequest p perm body) := by
  unfold State.takeRequest
  split
  · split
    · exact stopped _
    · exact taken
  · exact idle

end Sys2Proof.Machine
end

