-- ==== Sys2Proof/Laws/Engine.lean ====
section
/-! SUPPORT. What the callout engine's and the crew builder's shared operations can do, said once each: a run of the plan
raises notices and replaces one slot; an evaluation writes one slot and the engagements of its candidates; a reply does these
for one callout or two. -/

namespace Sys2Proof.Machine

open Sys2Proof

/-! ### Notices alone -/

/-- A state follows another by notices alone: nothing but the queues and marks of the ports differs, no queue loses a notice
or grows past 32 (R174), and no mark is cleared. -/
def State.noticed (s t : State) : Prop :=
  { t with ports := s.ports } = s ∧
    ∀ p : Port, (t.port p).cls = (s.port p).cls ∧ (t.port p).frame = (s.port p).frame ∧
      (t.port p).selLow = (s.port p).selLow ∧ (s.port p).queue <+: (t.port p).queue ∧
      ((s.port p).overflow = true → (t.port p).overflow = true) ∧
      ((s.port p).queue.length ≤ 32 → (t.port p).queue.length ≤ 32)

theorem State.noticed_refl (s : State) : s.noticed s :=
  ⟨rfl, fun _ => ⟨rfl, rfl, rfl, List.prefix_rfl, id, id⟩⟩

theorem State.noticed_trans {s t u : State} (h : s.noticed t) (g : t.noticed u) : s.noticed u := by
  refine ⟨?_, fun p => ?_⟩
  · have e : { u with ports := s.ports } = { ({ u with ports := t.ports } : State) with ports := s.ports } := rfl
    rw [e, g.1]; exact h.1
  · obtain ⟨h1, h2, h3, h4, h5, h6⟩ := h.2 p
    obtain ⟨g1, g2, g3, g4, g5, g6⟩ := g.2 p
    exact ⟨g1.trans h1, g2.trans h2, g3.trans h3, h4.trans g4, fun x => g5 (h5 x), fun x => g6 (h6 x)⟩

theorem PortState.offered_prefix (x : PortState) (testing : Bool) (n : Notice) : x.queue <+: (x.offered testing n).queue := by
  unfold PortState.offered
  split
  · exact List.prefix_rfl
  · split
    · exact List.prefix_append _ _
    · exact List.prefix_rfl

theorem PortState.offered_overflow (x : PortState) (testing : Bool) (n : Notice) (h : x.overflow = true) :
    (x.offered testing n).overflow = true := by
  unfold PortState.offered; split <;> [rfl; (split <;> [exact h; rfl])]

/-- A notice is notices alone. -/
theorem State.noticed_raiseNotice (s : State) (route : PortSet) (n : Notice) : s.noticed (s.raiseNotice route n) := by
  refine ⟨rfl, fun p => ?_⟩
  rw [State.port_raiseNotice]
  split
  · exact ⟨by simp, by simp, by simp, PortState.offered_prefix _ _ _, PortState.offered_overflow _ _ _,
      PortState.offered_bounded _ _ _⟩
  · exact ⟨rfl, rfl, rfl, List.prefix_rfl, id, id⟩

theorem State.noticed_raiseAid (s : State) (c : Callout) (a : Action) : s.noticed (s.raiseAid c a) := by
  cases a <;> first | exact State.noticed_raiseNotice _ _ _ | exact State.noticed_refl s

theorem State.noticed_raiseReply (s : State) (c : Callout) (m : MemberIdx) (source : ReplySource) :
    s.noticed (s.raiseReply c m source) := by
  unfold State.raiseReply; split <;> [exact State.noticed_raiseNotice _ _ _; exact State.noticed_refl s]

theorem State.noticed_raiseCrewStatus (s : State) (old : Crew) (c : Callout) : s.noticed (s.raiseCrewStatus old c) := by
  unfold State.raiseCrewStatus; split <;> [exact State.noticed_raiseNotice _ _ _; exact State.noticed_refl s]

/-! ### Running the plan (R41, R48) -/

/-- Two records of one callout that differ only in what running its plan changes: the step, the serial, the run, the paged
sets, the tones called and the queue. -/
def Callout.sameButRun (c d : Callout) : Prop :=
  d.number = c.number ∧ d.reference = c.reference ∧ d.cls = c.cls ∧ d.location = c.location ∧ d.origins = c.origins ∧
    d.priority = c.priority ∧ d.plan = c.plan ∧ d.elapsed = c.elapsed ∧ d.entries = c.entries ∧ d.crew = c.crew

theorem Callout.sameButRun_refl (c : Callout) : c.sameButRun c := ⟨rfl, rfl, rfl, rfl, rfl, rfl, rfl, rfl, rfl, rfl⟩

theorem Callout.sameButRun_trans {c d e : Callout} (h : c.sameButRun d) (g : d.sameButRun e) : c.sameButRun e := by
  obtain ⟨h1, h2, h3, h4, h5, h6, h7, h8, h9, h10⟩ := h
  obtain ⟨g1, g2, g3, g4, g5, g6, g7, g8, g9, g10⟩ := g
  exact ⟨g1.trans h1, g2.trans h2, g3.trans h3, g4.trans h4, g5.trans h5, g6.trans h6, g7.trans h7, g8.trans h8, g9.trans h9,
    g10.trans h10⟩

/-- What an action makes of the callout, beside the items it enqueues (R42 to R45). -/
theorem State.act_sameButRun (s : State) (c : Callout) (rate : CodeRate) (a : Action) : c.sameButRun (s.act c rate a).2 := by
  cases a <;> exact Callout.sameButRun_refl c

/-- An action taken raises notices and replaces the slot by the callout, Active, with the run it was given but for the
progress: Queued with items enqueued, or Holding. -/
theorem State.takeAction_effect (s : State) (k : SlotIdx) (c : Callout) (run : ActiveRun) (a : Action) (hold : Nat) :
    ∃ u c', s.noticed u ∧ s.takeAction k c run a hold = u.setSlot k (some c') ∧ c.sameButRun c' ∧ c'.step = c.step ∧
      c'.serial = c.serial ∧
      ((s.act c (run.rate.getD .half) a).1 = [] ∧ c'.queue = c.queue ∧
          c'.lifecycle = .active { run with progress := c.heldFor hold } ∨
        (s.act c (run.rate.getD .half) a).1 ≠ [] ∧ c'.lifecycle = .active { run with progress := .queued }) := by
  refine ⟨_, _, s.noticed_raiseAid c a, rfl, s.act_sameButRun c _ a, by cases a <;> rfl, by cases a <;> rfl, ?_⟩
  by_cases h : (s.act c (run.rate.getD .half) a).1 = []
  · refine Or.inl ⟨h, ?_, ?_⟩
    · simp only [Callout.withRun, Callout.enqueue, h]
      cases a <;> simp [State.act]
    · simp [Callout.withRun, h]
  · exact Or.inr ⟨h, by simp [Callout.withRun, h]⟩

/-- Exhausted: at most one notice, and the slot with an Exhausted run (R41). -/
theorem State.exhaust_effect (s : State) (k : SlotIdx) (c : Callout) :
    ∃ u, s.noticed u ∧ s.exhaust k c = u.setSlot k (some (c.withRun ⟨.exhausted, 0, none⟩)) := by
  unfold State.exhaust
  split
  · exact ⟨_, State.noticed_raiseNotice _ _ _, rfl⟩
  · exact ⟨_, State.noticed_refl s, rfl⟩

/-- A step start raises notices and replaces the slot by the same callout, Active (R41). -/
theorem State.startSteps_effect (s : State) (k : SlotIdx) (steps : List PlanStep) (i : Nat) (c : Callout) :
    ∃ u c', s.noticed u ∧ s.startSteps k steps i c = u.setSlot k (some c') ∧ c.sameButRun c' ∧ c'.isActive = true := by
  induction steps generalizing i c with
  | nil =>
    obtain ⟨u, hu, he⟩ := s.exhaust_effect k c.bumped
    exact ⟨u, _, hu, he, Callout.sameButRun_refl c, rfl⟩
  | cons x rest ih =>
    cases x with
    | finish =>
      obtain ⟨u, hu, he⟩ := s.exhaust_effect k { c.bumped with step := Fin.ofNat 8 i }
      exact ⟨u, _, hu, he, Callout.sameButRun_refl c, rfl⟩
    | act a cond hold reps =>
      simp only [State.startSteps]
      split
      · obtain ⟨u, c', hu, he, hs, -, -, hl⟩ :=
          s.takeAction_effect k { c.bumped with step := Fin.ofNat 8 i } ⟨.queued, reps, a.rate⟩ a hold
        exact ⟨u, c', hu, he, hs, by rcases hl with ⟨-, -, hl⟩ | ⟨-, hl⟩ <;> simp [Callout.isActive, hl]⟩
      · exact ih _ _

/-- The start of a step raises notices and replaces the slot by the same callout, Active (R41). -/
theorem State.startStep_effect (s : State) (k : SlotIdx) (i : Nat) (c : Callout) :
    ∃ u c', s.noticed u ∧ s.startStep k i c = u.setSlot k (some c') ∧ c.sameButRun c' ∧ c'.isActive = true :=
  s.startSteps_effect k _ i c

/-- The expiry of a hold raises notices and replaces the slot by the same callout, Active (R48). -/
theorem State.expireHold_effect (s : State) (k : SlotIdx) (c : Callout) (run : ActiveRun) :
    ∃ u c', s.noticed u ∧ s.expireHold k c run = u.setSlot k (some c') ∧ c.sameButRun c' ∧ c'.isActive = true := by
  unfold State.expireHold
  split
  · split
    · obtain ⟨u, c', hu, he, hs, -, -, hl⟩ := s.takeAction_effect k c.bumped
        { run with repeatsLeft := run.repeatsLeft - 1, rate := run.rate.map CodeRate.stronger } _ _
      exact ⟨u, c', hu, he, hs, by rcases hl with ⟨-, -, hl⟩ | ⟨-, hl⟩ <;> simp [Callout.isActive, hl]⟩
    · exact s.startStep_effect k _ c
  · exact s.startStep_effect k _ c

/-! ### The end of a callout (R34, R58) -/

/-- One slot when the channel becomes Stopped (R58). -/
def stoppedSlot (x : Option Callout) : Option Callout :=
  x.bind fun c => match c.lifecycle with
    | .active _ => some c
    | .departed => some { c with queue := [] }
    | .standingDown _ => none

/-- A slot replaced, at every slot. -/
theorem State.slots_setSlot (s : State) (k : SlotIdx) (x : Option Callout) (j : SlotIdx) :
    (s.setSlot k x).slots[j] = if j = k then x else s.slots[j] := by
  split
  · rename_i h; subst h; exact s.slots_setSlot_self _ _
  · exact s.slots_setSlot_other _ (by assumption)

/-- R58 on one slot: at most one notice, and the slot as it says. -/
theorem State.stopSlot_effect (s : State) (k : SlotIdx) :
    ∃ u, s.noticed u ∧ s.stopSlot k = u.setSlot k (stoppedSlot s.slots[k]) := by
  have self : s.setSlot k s.slots[k] = s := by
    show { s with slots := s.slots.set k s.slots[k.val] } = s
    rw [Vector.set_getElem_self]
  unfold State.stopSlot
  split
  · rename_i h
    exact ⟨s, s.noticed_refl, by rw [h] at self; rw [h]; exact self.symm⟩
  · rename_i c h
    split
    · rename_i hl
      exact ⟨_, s.noticed_raiseNotice (s.interested c) (freedNotice c .channelStopped), by
        rw [h]; simp only [stoppedSlot, Option.bind_some, hl]; rfl⟩
    · rename_i hl
      exact ⟨s, s.noticed_refl, by rw [h]; simp only [stoppedSlot, Option.bind_some, hl]⟩
    · rename_i run hl
      refine ⟨s, s.noticed_refl, ?_⟩
      have : stoppedSlot s.slots[k] = s.slots[k] := by rw [h]; simp only [stoppedSlot, Option.bind_some, hl]
      rw [this]; exact self.symm

/-! ### The crew builder's writing back (R100, R101) -/

/-- An evaluation replaces the crew and the seats of the entries; members, answers and times stay, and so does the rest of the
callout (R88, R100). -/
theorem State.evaluated_entries (s : State) (c : Callout) :
    (s.evaluated c).entries.map (·.member) = c.entries.map (·.member) ∧
      (s.evaluated c).entries.map (fun e => { e with seat := .unseated }) = c.entries.map (fun e => { e with seat := .unseated }) := by
  constructor <;> simp [State.evaluated]

/-- Writing back touches the slot and the engagements of the roster alone. -/
theorem State.settle_frame (s : State) (k : SlotIdx) (c : Callout) :
    { s.settle k c with roster := s.roster, slots := s.slots } = s ∧ (s.settle k c).slots = s.slots.set k (some c) := by
  unfold State.settle
  have h : ∀ (l : List Entry) (t : State),
      { l.foldl (State.engageEntry c.number) t with roster := t.roster } = t := by
    intro l
    induction l with
    | nil => intro t; rfl
    | cons e es ih =>
      intro t
      have e1 : { State.engageEntry c.number t e with roster := t.roster } = t := by
        unfold State.engageEntry; split <;> rfl
      have e2 := ih (State.engageEntry c.number t e)
      have e3 : { List.foldl (State.engageEntry c.number) (State.engageEntry c.number t e) es with roster := t.roster } =
          { ({ List.foldl (State.engageEntry c.number) (State.engageEntry c.number t e) es with
            roster := (State.engageEntry c.number t e).roster } : State) with roster := t.roster } := rfl
      simp only [List.foldl_cons]
      rw [e3, e2, e1]
  have h' := h c.entries (s.setSlot k (some c))
  constructor
  · have e : { List.foldl (State.engageEntry c.number) (s.setSlot k (some c)) c.entries with
        roster := s.roster, slots := s.slots } =
        { ({ List.foldl (State.engageEntry c.number) (s.setSlot k (some c)) c.entries with
          roster := (s.setSlot k (some c)).roster } : State) with slots := s.slots } := rfl
    rw [e, h']
    rfl
  · exact congrArg State.slots h'

/-- The engagement that writing back gives a member that is not in the list: its own. -/
theorem State.settle_member_other (s : State) (k : SlotIdx) (c : Callout) (m : MemberIdx) (h : ∀ e ∈ c.entries, e.member ≠ m) :
    (s.settle k c).member m = s.member m := by
  unfold State.settle
  have : ∀ (l : List Entry) (t : State), (∀ e ∈ l, e.member ≠ m) →
      (l.foldl (State.engageEntry c.number) t).member m = t.member m := by
    intro l
    induction l with
    | nil => intro t _; rfl
    | cons e es ih =>
      intro t hl
      rw [List.foldl_cons, ih _ fun x hx => hl x (List.mem_cons_of_mem _ hx)]
      have he : m ≠ e.member := fun hm => hl e List.mem_cons_self hm.symm
      unfold State.engageEntry
      split
      · exact State.member_engage_other _ _ he
      · exact State.member_engage_other _ _ he
      · rfl
  exact this _ _ h

/-- The engagement that writing back gives a member of a list without repeats: Assigned for a seat, Responding for Standby, its
own otherwise (R101). -/
theorem State.settle_member (s : State) (k : SlotIdx) (c : Callout) (e : Entry) (he : e ∈ c.entries)
    (hn : (c.entries.map (·.member)).Nodup) :
    (s.settle k c).member e.member = match e.seat with
      | .seated _ => { s.member e.member with engagement := .assigned c.number }
      | .standby => { s.member e.member with engagement := .responding c.number }
      | .unseated => s.member e.member := by
  unfold State.settle
  have other : ∀ (l : List Entry) (t : State), (∀ x ∈ l, x.member ≠ e.member) →
      (l.foldl (State.engageEntry c.number) t).member e.member = t.member e.member := by
    intro l
    induction l with
    | nil => intro t _; rfl
    | cons x xs ih =>
      intro t hl
      rw [List.foldl_cons, ih _ fun y hy => hl y (List.mem_cons_of_mem _ hy)]
      have hx : e.member ≠ x.member := fun hm => hl x List.mem_cons_self hm.symm
      unfold State.engageEntry
      split
      · exact State.member_engage_other _ _ hx
      · exact State.member_engage_other _ _ hx
      · rfl
  have main : ∀ (l : List Entry) (t : State), e ∈ l → (l.map (·.member)).Nodup →
      (l.foldl (State.engageEntry c.number) t).member e.member = match e.seat with
        | .seated _ => { t.member e.member with engagement := .assigned c.number }
        | .standby => { t.member e.member with engagement := .responding c.number }
        | .unseated => t.member e.member := by
    intro l
    induction l with
    | nil => intro t h; cases h
    | cons x xs ih =>
      intro t hx hnd
      rw [List.map_cons, List.nodup_cons] at hnd
      rw [List.foldl_cons]
      rcases List.mem_cons.1 hx with rfl | hx
      · rw [other _ _ fun y hy hm => hnd.1 (List.mem_map.2 ⟨y, hy, hm⟩)]
        unfold State.engageEntry
        split <;> simp_all
      · have hne : e.member ≠ x.member := fun hm => hnd.1 (List.mem_map.2 ⟨e, hx, hm⟩)
        rw [ih _ hx hnd.2]
        have : (State.engageEntry c.number t x).member e.member = t.member e.member := by
          unfold State.engageEntry
          split
          · exact State.member_engage_other _ _ hne
          · exact State.member_engage_other _ _ hne
          · rfl
        rw [this]
  exact main _ _ he hn

/-! ### Replies (R70) -/

/-- The five outcomes of a reply that has passed the tests before stage 4: dropped with or without a notice, or recorded, after
a withdrawal from the callout of another slot or without one. -/
theorem State.handleReply_cases (s : State) (k : SlotIdx) (c : Callout) (r : Reply) :
    let w := s.weigh c r
    let room := roomFor c.entries r.member (w.answer r)
    (room = .noRoom true ∧
      s.handleReply k c r = (s.raiseNotice s.stations (listFullNotice c r.member (w.answer r) r.source), .full)) ∨
    (room = .noRoom false ∧ s.handleReply k c r = (s, .full)) ∨
    ((∀ b, room ≠ .noRoom b) ∧
      ((∃ kd d, w = .withdrawing kd d ∧
          s.handleReply k c r = ((s.withdraw kd d r).record k c r r.answer false room, .done)) ∨
        (w = .received ∧ s.handleReply k c r = (s.record k c r r.answer false room, .done)) ∨
        (w = .elsewhere ∧ s.handleReply k c r = (s.record k c r .declined true room, .done)))) := by
  simp only [State.handleReply]
  cases hr : roomFor c.entries r.member ((s.weigh c r).answer r) with
  | noRoom b => cases b <;> simp
  | update => cases hw : s.weigh c r <;> simp [Weighing.answer, Weighing.mark]
  | append => cases hw : s.weigh c r <;> simp [Weighing.answer, Weighing.mark]
  | evict => cases hw : s.weigh c r <;> simp [Weighing.answer, Weighing.mark]

/-- What the engagement rule looked at (R72, R73). -/
theorem State.weigh_cases (s : State) (c : Callout) (r : Reply) :
    (s.weigh c r = .received ∧
        (r.answer = .declined ∨
          ∀ d, (s.member r.member).engagement.callout = some d → d = c.number ∨ s.lookup d = none)) ∨
      (∃ (k : SlotIdx) (d : Callout), s.weigh c r = .withdrawing k d ∧ r.answer ≠ .declined ∧ d.number ≠ c.number ∧
        (s.member r.member).engagement.callout = some d.number ∧ s.slots[k] = some d ∧ d.isActive = true ∧
        d.priority < c.priority) ∨
      (s.weigh c r = .elsewhere ∧ r.answer ≠ .declined ∧
        ∃ (k : SlotIdx) (d : Callout), d.number ≠ c.number ∧ (s.member r.member).engagement.callout = some d.number ∧ s.slots[k] = some d ∧
          (d.isActive = false ∨ ¬d.priority < c.priority)) := by
  unfold State.weigh
  split
  · exact Or.inl ⟨rfl, Or.inl (by assumption)⟩
  · rename_i hd
    split
    · rename_i he; exact Or.inl ⟨rfl, Or.inr fun d h => by rw [he] at h; cases h⟩
    · rename_i d he
      split
      · rename_i hc
        exact Or.inl ⟨rfl, Or.inr fun x h => by rw [he] at h; cases h; exact Or.inl hc⟩
      · rename_i hc
        split
        · rename_i hl
          exact Or.inl ⟨rfl, Or.inr fun x h => by rw [he] at h; cases h; exact Or.inr hl⟩
        · rename_i k x hl
          obtain ⟨hs, hn⟩ := State.lookup_some hl
          subst hn
          split
          · rename_i hp
            rw [Bool.and_eq_true] at hp
            exact Or.inr (Or.inl ⟨k, x, rfl, hd, hc, he, hs, hp.1, of_decide_eq_true hp.2⟩)
          · rename_i hp
            refine Or.inr (Or.inr ⟨rfl, hd, k, x, hc, he, hs, ?_⟩)
            cases ha : x.isActive
            · exact Or.inl rfl
            · exact Or.inr fun h => hp (by simp [ha, h])

/-- The recording of a reply raises notices after the writing back of the callout with the reply in its list (R70 stages 6
and 7). -/
theorem State.record_effect (s : State) (k : SlotIdx) (c : Callout) (r : Reply) (a : Answer) (mark : Bool) (room : Room) :
    let c' := s.evaluated { c with entries := recordIn c r a mark (s.member r.member).defaultEta room }
    ((s.engageReply c.number r.member a mark).settle k c').noticed (s.record k c r a mark room) :=
  State.noticed_trans (State.noticed_raiseReply _ _ _ _) (State.noticed_raiseCrewStatus _ _ _)

/-- A withdrawal raises notices after the writing back of the callout with the entry withdrawn (R72). -/
theorem State.withdraw_effect (s : State) (k : SlotIdx) (d : Callout) (r : Reply) :
    ((s.engage r.member .free).settle k (s.evaluated { d with entries := withdrawEntry d.entries r.member })).noticed
      (s.withdraw k d r) :=
  State.noticed_trans (State.noticed_raiseReply _ _ _ _) (State.noticed_raiseCrewStatus _ _ _)

/-- The member engaged by a reply is the reply's; nothing but the roster is touched (R74, R79). -/
theorem State.engageReply_frame (s : State) (n : Half) (m : MemberIdx) (a : Answer) (mark : Bool) :
    { s.engageReply n m a mark with roster := s.roster } = s ∧
      ∀ k, k ≠ m → (s.engageReply n m a mark).member k = s.member k := by
  unfold State.engageReply
  cases a <;> simp only
  · exact ⟨rfl, fun k hk => State.member_engage_other _ _ hk⟩
  · split
    · exact ⟨rfl, fun k hk => State.member_engage_other _ _ hk⟩
    · exact ⟨rfl, fun _ _ => rfl⟩
  · exact ⟨rfl, fun k hk => State.member_engage_other _ _ hk⟩
  · exact ⟨trivial, fun _ _ => trivial⟩

end Sys2Proof.Machine
end

