-- ==== Sys2Proof/Laws/Channel.lean ====
section
/-! SUPPORT. What the channel scheduler's and the receiver's shared operations can do, said once each: which parts of the state
each touches, and what it leaves in them. -/

namespace Sys2Proof.Machine

open Sys2Proof

/-! ### The cycle plan -/

/-- A layout stands back to back from its start, each item at its cost (R117). -/
theorem laidOut_layOut (start : Nat) (l : List TxItem) : laidOut start (layOut start l) := by
  induction l generalizing start with
  | nil => trivial
  | cons i rest ih => exact ⟨rfl, rfl, ih _⟩

/-- Every item costs at least one symbol time (R115). -/
theorem ItemKind.cost_pos (i : ItemKind) : 0 < i.cost := by
  unfold ItemKind.cost; split <;> (try split) <;> decide

/-- The items of a laid-out plan stand from its start on, within what they cost together (R117). -/
theorem laidOut_bounds {start : Nat} {plan : List PlannedItem} (h : laidOut start plan) :
    ∀ e ∈ plan, start ≤ e.start ∧ 0 < e.cost ∧ e.start + e.cost ≤ start + (plan.map (·.cost)).sum := by
  induction plan generalizing start with
  | nil => simp
  | cons x rest ih =>
    obtain ⟨h1, h2, h3⟩ := h
    have hx : 0 < x.cost := h2 ▸ ItemKind.cost_pos _
    intro e he
    simp only [List.map_cons, List.sum_cons]
    rcases List.mem_cons.1 he with rfl | he
    · omega
    · have := ih h3 e he; omega

/-- Two items of a laid-out plan that begin, or end, at one symbol are one (R117). -/
theorem laidOut_unique {start : Nat} {plan : List PlannedItem} (h : laidOut start plan) {e x : PlannedItem} (he : e ∈ plan)
    (hx : x ∈ plan) (same : e.start = x.start ∨ e.start + e.cost = x.start + x.cost) : e = x := by
  induction plan generalizing start with
  | nil => cases he
  | cons y rest ih =>
    obtain ⟨h1, h2, h3⟩ := h
    have hy : 0 < y.cost := h2 ▸ ItemKind.cost_pos _
    rcases List.mem_cons.1 he with he | he <;> rcases List.mem_cons.1 hx with hx | hx
    · rw [he, hx]
    · have := laidOut_bounds h3 x hx; subst he; omega
    · have := laidOut_bounds h3 e he; subst hx; omega
    · exact ih h3 he hx

/-- A search of a plan finds an item exactly when the item alone passes its test. -/
theorem find_eq_some_iff_unique {plan : List PlannedItem} {p : PlannedItem → Bool} {e : PlannedItem}
    (unique : ∀ x ∈ plan, p x = true → ∀ y ∈ plan, p y = true → x = y) : plan.find? p = some e ↔ e ∈ plan ∧ p e = true := by
  constructor
  · exact fun h => ⟨List.mem_of_find?_eq_some h, List.find?_some h⟩
  · rintro ⟨he, hp⟩
    cases h : plan.find? p with
    | none => exact absurd hp (by simpa using List.find?_eq_none.1 h e he)
    | some x => rw [unique x (List.mem_of_find?_eq_some h) (List.find?_some h) e he hp]

/-- The item whose symbols hold a position of a laid-out plan is found there (R117). -/
theorem itemAt_laidOut {start p : Nat} {plan : List PlannedItem} (h : laidOut start plan) {e : PlannedItem} (he : e ∈ plan)
    (unsent : e.unsent = true) (begun : e.start ≤ p) (short : p < e.start + e.cost) : itemAt plan p = some e := by
  induction plan generalizing start with
  | nil => cases he
  | cons x rest ih =>
    obtain ⟨h1, h2, h3⟩ := h
    rcases List.mem_cons.1 he with rfl | he
    · simp [itemAt, unsent, PlannedItem.finish, begun, short]
    · have after := laidOut_bounds h3 e he
      have past : ¬ p < x.finish := by simp only [PlannedItem.finish]; omega
      have found := ih h3 he
      simp only [itemAt] at found ⊢
      rw [List.find?_cons, found]
      simp [past]

/-- A keyed period ends after the items of a laid-out plan (R122). -/
theorem periodEnd_laidOut {plan : List PlannedItem} (h : laidOut 240 plan) : periodEnd plan = 240 + (plan.map (·.cost)).sum := by
  have general : ∀ (start : Nat) (plan : List PlannedItem), laidOut start plan →
      ∀ e ∈ plan.getLast?, e.finish = start + (plan.map (·.cost)).sum := by
    intro start plan
    induction plan generalizing start with
    | nil => intro _ e he; cases he
    | cons x rest ih =>
      rintro ⟨h1, h2, h3⟩ e he
      cases rest with
      | nil =>
        simp only [List.getLast?_singleton, Option.mem_def, Option.some.injEq] at he
        subst he; simp [PlannedItem.finish, h1]
      | cons y ys =>
        have := ih _ h3 e (by simpa using he)
        rw [this]; simp only [List.map_cons, List.sum_cons, Nat.add_assoc]
  unfold periodEnd
  split
  · exact general 240 plan h _ (by assumption)
  · rename_i hn; rw [List.getLast?_eq_none_iff.1 hn]; rfl

/-- A layout costs what its items cost. -/
theorem sum_cost_layOut (start : Nat) (l : List TxItem) : ((layOut start l).map (·.cost)).sum = costOf l := by
  induction l generalizing start with
  | nil => rfl
  | cons i rest ih => simp [layOut, costOf, ih]

/-- A layout holds its items in order, all Pending. -/
theorem layOut_items (start : Nat) (l : List TxItem) :
    (layOut start l).map (·.item) = l ∧ ∀ e ∈ layOut start l, e.state = .pending := by
  induction l generalizing start with
  | nil => exact ⟨rfl, fun _ h => absurd h List.not_mem_nil⟩
  | cons i rest ih =>
    refine ⟨by simp [layOut, (ih _).1], fun e he => ?_⟩
    rcases List.mem_cons.1 he with rfl | he
    · rfl
    · exact (ih _).2 e he

/-- The states of planned items do not move them. -/
theorem laidOut_map (f : PlannedItem → ItemState) (start : Nat) (plan : List PlannedItem) :
    laidOut start (plan.map fun e => { e with state := f e }) ↔ laidOut start plan := by
  induction plan generalizing start with
  | nil => exact Iff.rfl
  | cons e rest ih => simp only [List.map_cons, laidOut, ih]

/-- A left fold of slot updates touches the slots alone. -/
theorem foldl_slots {α : Type} (f : State → α → State) (hf : ∀ t x, { f t x with slots := t.slots } = t) (l : List α) (t : State) :
    { l.foldl f t with slots := t.slots } = t := by
  induction l generalizing t with
  | nil => rfl
  | cons x xs ih =>
    calc { (x :: xs).foldl f t with slots := t.slots }
      _ = { ({ xs.foldl f (f t x) with slots := (f t x).slots } : State) with slots := t.slots } := rfl
      _ = { f t x with slots := t.slots } := by rw [ih]
      _ = t := hf t x

/-- A right fold of slot updates touches the slots alone. -/
theorem foldr_slots {α : Type} (f : α → State → State) (hf : ∀ t x, { f x t with slots := t.slots } = t) (l : List α) (t : State) :
    { l.foldr f t with slots := t.slots } = t := by
  induction l with
  | nil => rfl
  | cons x xs ih =>
    calc { (x :: xs).foldr f t with slots := t.slots }
      _ = { ({ f x (xs.foldr f t) with slots := (xs.foldr f t).slots } : State) with slots := t.slots } := rfl
      _ = { xs.foldr f t with slots := t.slots } := by rw [hf]
      _ = t := ih

/-- Building the plan takes items from the queues and writes the cycle plan; nothing else is touched (R114). -/
theorem State.buildPlan_frame (s : State) :
    { s.buildPlan with slots := s.slots, channel := s.channel } = s ∧
      s.buildPlan.channel = { s.channel with plan := s.buildPlan.channel.plan } := by
  have h := foldl_slots (fun s (t : Turn) => s.setSlot t.slot (some t.left)) (fun _ _ => rfl)
    (planTurns Config.outboundBudget s.waiting) s
  have hc := congrArg State.channel h
  refine ⟨?_, ?_⟩
  · exact (congrArg (fun u : State => ({ u with channel := s.channel } : State)) h)
  · exact congrArg (fun c : Channel => ({ c with plan := s.buildPlan.channel.plan } : Channel)) hc

/-! ### Release and return -/

/-- A returned item changes at most the slot of its callout, which takes it back at the head of its queue (R126). -/
theorem State.returnItem_effect (s : State) (i : TxItem) :
    State.returnItem i s = s ∨
      ∃ k c, s.lookup i.callout = some (k, c) ∧ c.takesBack i = true ∧
        State.returnItem i s = s.setSlot k (some (c.putBack i)) := by
  unfold State.returnItem
  split
  · rename_i k c h
    split
    · rename_i ht; exact Or.inr ⟨k, c, h, ht, rfl⟩
    · exact Or.inl rfl
  · exact Or.inl rfl

/-- Returning touches the queues and the states of the plan; nothing else (R123, R126). -/
theorem State.returnUnsent_frame (s : State) :
    { s.returnUnsent with slots := s.slots, channel := s.channel } = s ∧
      s.returnUnsent.channel = { s.channel with
        plan := s.channel.plan.map fun e => if e.unsent then { e with state := .returned } else e } := by
  have hf : ∀ (t : State) (e : PlannedItem), { State.returnItem e.item t with slots := t.slots } = t := by
    intro t e
    rcases t.returnItem_effect e.item with h | ⟨k, c, -, -, h⟩ <;> rw [h]
    rfl
  have h := foldr_slots (fun (e : PlannedItem) s => State.returnItem e.item s) hf s.unsent s
  have hc := congrArg State.channel h
  refine ⟨?_, ?_⟩
  · exact (congrArg (fun u : State => ({ u with channel := s.channel } : State)) h)
  · exact congrArg (fun c : Channel => ({ c with
      plan := s.channel.plan.map fun e => if e.unsent then { e with state := .returned } else e } : Channel)) hc

/-! ### The plan point (R114) -/

/-- A selection stores the site and raises at most a notice (R119, R124). -/
theorem State.select_effect (s : State) (site : Site) (why : SiteChangeCause) :
    ({ s with channel := { s.channel with selected := site } } : State).noticed (s.select site why) := by
  unfold State.select
  split
  · rename_i h; subst h; exact State.noticed_refl s
  · exact State.noticed_raiseNotice _ _ _

/-- The keying decision touches the channel, the transmit path, the queues and the notices (R121). -/
theorem State.keyingDecision_frame (s : State) (pins : SitePins) :
    { s.keyingDecision pins with channel := s.channel, tx := s.tx, slots := s.slots, ports := s.ports } = s := by
  have hs : ∀ site why, { s.select site why with channel := s.channel, ports := s.ports } = s := by
    intro site why
    exact congrArg (fun u : State => ({ u with channel := s.channel } : State)) (s.select_effect site why).1
  have hr := s.returnUnsent_frame.1
  unfold State.keyingDecision
  simp only
  split
  · rfl
  · split
    · split
      · exact congrArg (fun u : State => ({ u with tx := s.tx, slots := s.slots } : State))
          (hs (otherSite s.channel.selected) .failover)
      · rfl
    · exact congrArg (fun u : State => ({ u with tx := s.tx, ports := s.ports } : State)) hr

/-! ### Changes of channel state (R107, R110, R58) -/

/-- A change of channel state is the state and one notice (R110). -/
theorem State.changeChannel_effect (s : State) (new : ChannelState) (why : ChannelCause) :
    ({ s with channel := { s.channel with state := new } } : State).noticed (s.changeChannel new why) :=
  State.noticed_raiseNotice _ _ _

/-- R58 on every slot: each as it says, and notices. -/
theorem State.stopSlots_effect (s : State) :
    s.noticed { s.stopSlots with slots := s.slots } ∧ ∀ k : SlotIdx, s.stopSlots.slots[k] = stoppedSlot s.slots[k] := by
  have h : ∀ (l : List SlotIdx) (t : State), l.Nodup →
      t.noticed { l.foldl State.stopSlot t with slots := t.slots } ∧
        ∀ j : SlotIdx, (l.foldl State.stopSlot t).slots[j] = if j ∈ l then stoppedSlot t.slots[j] else t.slots[j] := by
    intro l
    induction l with
    | nil => intro t _; exact ⟨t.noticed_refl, fun j => by simp⟩
    | cons k ks ih =>
      intro t hn
      rw [List.nodup_cons] at hn
      obtain ⟨u, hu, he⟩ := t.stopSlot_effect k
      obtain ⟨h1, h2⟩ := ih (t.stopSlot k) hn.2
      have hsl : u.slots = t.slots := Eq.trans (b := ({ u with ports := t.ports } : State).slots) rfl (congrArg State.slots hu.1)
      refine ⟨?_, fun j => ?_⟩
      · rw [List.foldl_cons]
        refine State.noticed_trans hu ?_
        have e1 := congrArg (fun v : State => ({ v with slots := t.slots } : State)) h1.1
        have e2 : ({ t.stopSlot k with slots := t.slots } : State) = u := by rw [he, ← hsl]; rfl
        have p1 : ∀ p, (t.stopSlot k).port p = u.port p := by intro p; rw [he]; rfl
        refine ⟨?_, fun p => ?_⟩
        · have : ({ List.foldl State.stopSlot (t.stopSlot k) ks with slots := t.slots, ports := u.ports } : State) =
              { t.stopSlot k with slots := t.slots } := by
            rw [← e1, he]; rfl
          exact this.trans e2
        · have := h1.2 p
          rw [p1] at this
          exact this
      · rw [List.foldl_cons, h2, he]
        simp only [State.slots_setSlot, hsl]
        by_cases hj : j = k
        · subst hj; simp [hn.1]
        · simp [hj]
  have hall : allSlots.Nodup := List.nodup_finRange 8
  obtain ⟨h1, h2⟩ := h allSlots s hall
  exact ⟨h1, fun k => by rw [State.stopSlots, h2]; simp [allSlots]⟩

/-! ### Completion (R125) -/

/-- A completion that finds no callout of its number and serial, none whose lifecycle sends such an item, has no effect (R125). -/
theorem State.matchCompletion_unmatched (s : State) (i : TxItem)
    (h : ∀ k c, s.lookup i.callout = some (k, c) → c.takesBack i = false) : s.matchCompletion i = s := by
  unfold State.matchCompletion
  split
  · rfl
  · rename_i k c hl
    have hc := h k c hl
    split
    · rename_i hs
      cases hf : c.lifecycle <;> simp_all [Callout.takesBack]
    · rfl

/-- A matched completion touches the slots and raises at most a notice (R47, R54). -/
theorem State.matchCompletion_frame (s : State) (i : TxItem) :
    s.noticed { s.matchCompletion i with slots := s.slots } := by
  unfold State.matchCompletion
  split
  · exact s.noticed_refl
  · split
    · split
      · split <;> exact s.noticed_refl
      · split
        · split
          · exact s.noticed_raiseNotice _ _
          · exact s.noticed_refl
        · exact s.noticed_refl
      · exact s.noticed_refl
    · exact s.noticed_refl

/-! ### Symbol times (R112) -/

/-- A symbol time of a running channel touches the channel's position and plan, the transmit path, the receiver and the levels
sampled (R133, R152). -/
theorem State.advanceSymbol_frame (s : State) (pins : RxPins) :
    { s.advanceSymbol pins with channel := s.channel, tx := s.tx, rx := s.rx, inputs := s.inputs } = s ∧
      (s.advanceSymbol pins).channel = { s.channel with
        pos := (s.advanceSymbol pins).channel.pos, plan := (s.advanceSymbol pins).channel.plan } := by
  unfold State.advanceSymbol
  split
  · exact ⟨rfl, rfl⟩
  · split <;> exact ⟨rfl, rfl⟩
  · unfold State.sampleReply State.sendSymbol
    split
    · split
      · split <;> exact ⟨rfl, rfl⟩
      · split
        · split <;> exact ⟨rfl, rfl⟩
        · split
          · split <;> exact ⟨rfl, rfl⟩
          · split <;> split <;> exact ⟨rfl, rfl⟩
    · split <;> exact ⟨rfl, rfl⟩

/-! ### The receiver (R153) -/

/-- The decision of a cell touches the member of the cell, the count, the hand-offs and the notices (R11, R14, R161, R162). -/
theorem State.settleCell_frame (s : State) (k : MemberIdx) :
    { s.settleCell k with roster := s.roster, rx := s.rx, handOffs := s.handOffs, ports := s.ports } = s ∧
      ∀ m, m ≠ k → (s.settleCell k).member m = s.member m := by
  have hand : ∀ (t : State) a eta tag, { t.handOn k a eta tag with handOffs := t.handOffs } = t ∧
      ∀ m, (t.handOn k a eta tag).member m = t.member m := by
    intro t a eta tag
    unfold State.handOn
    split <;> exact ⟨rfl, fun _ => rfl⟩
  have status : ∀ (t : State) v, { t.statusReply k v with roster := t.roster, ports := t.ports } = t ∧
      ∀ m, m ≠ k → (t.statusReply k v).member m = t.member m := by
    intro t v
    unfold State.statusReply
    split
    · exact ⟨rfl, fun _ _ => rfl⟩
    · exact ⟨rfl, fun m hm => State.member_setMember_other _ _ hm⟩
  unfold State.settleCell
  split
  · exact ⟨rfl, fun _ _ => rfl⟩
  · exact ⟨rfl, fun _ _ => rfl⟩
  · unfold State.accept
    simp only
    have own : ∀ m, m ≠ k → (s.setMember k { s.member k with lastHeard := some s.channel.cycle }).member m = s.member m :=
      fun m hm => State.member_setMember_other _ _ hm
    split
    · refine ⟨?_, fun m hm => ((hand _ _ _ _).2 m).trans (own m hm)⟩
      exact congrArg (fun u : State => ({ u with roster := s.roster, rx := s.rx, ports := s.ports } : State)) (hand _ _ _ _).1
    · refine ⟨?_, fun m hm => ((hand _ _ _ _).2 m).trans (own m hm)⟩
      exact congrArg (fun u : State => ({ u with roster := s.roster, rx := s.rx, ports := s.ports } : State)) (hand _ _ _ _).1
    · refine ⟨?_, fun m hm => ((status _ _).2 m hm).trans (own m hm)⟩
      exact congrArg (fun u : State => ({ u with roster := s.roster, rx := s.rx, handOffs := s.handOffs } : State)) (status _ _).1
    · refine ⟨?_, fun m hm => ((status _ _).2 m hm).trans (own m hm)⟩
      exact congrArg (fun u : State => ({ u with roster := s.roster, rx := s.rx, handOffs := s.handOffs } : State)) (status _ _).1

/-- A cell that ends with no callout reply on its way waits for none (R161). -/
theorem State.awaitsHandOff_nil (s : State) (k : MemberIdx) (h : s.handOffs = []) : s.awaitsHandOff k = false := by
  simp [State.awaitsHandOff, h]

/-! ### The end of an item (R125, R150) -/

/-- The end of an item leaves the increments of a tone call that starts elsewhere (R150). -/
theorem Transmit.ended_tone (x : Transmit) (e : PlannedItem) (t : ToneInHand) :
    (x.ended e).tone = some t ↔ x.tone = some t ∧ t.start ≠ e.start := by
  simp [Transmit.ended, Option.filter_eq_some_iff]

/-- The end of an item touches the frame and the tone call in hand alone. -/
theorem Transmit.ended_frame (x : Transmit) (e : PlannedItem) :
    { x.ended e with tone := x.tone, frame := x.frame } = x ∧ (x.ended e).frame = [] := ⟨rfl, rfl⟩

/-! ### The clocks (R183 to R186) -/

/-- Notices touch neither the clocks nor the transmit path. -/
theorem State.noticed_clock {t u : State} (h : t.noticed u) : u.sup = t.sup ∧ u.tx = t.tx := by
  have h1 := congrArg State.sup h.1
  have h2 := congrArg State.tx h.1
  exact ⟨h1, h2⟩

/-- The stop of the channel touches neither the clocks nor the word sent (R110). -/
theorem State.stopChannel_clock (s : State) (why : ChannelCause) :
    (s.stopChannel why).sup = s.sup ∧ (s.stopChannel why).tx.dacWord = s.tx.dacWord := by
  unfold State.stopChannel
  have h1 := State.noticed_clock (State.stopSlots_effect
    (State.changeChannel { s.unkey with channel := { s.unkey.channel with pos := .absent } } .stopped why)).1
  have h2 := State.noticed_clock (State.changeChannel_effect
    { s.unkey with channel := { s.unkey.channel with pos := .absent } } .stopped why)
  constructor
  · rw [h1.1, h2.1]; rfl
  · rw [h1.2, h2.2]; rfl

/-- The channel's reaction to a loss touches neither the clocks nor the word sent (R129). -/
theorem State.loseClock_clock (s : State) : s.loseClock.sup = s.sup ∧ s.loseClock.tx.dacWord = s.tx.dacWord := by
  have h1 := congrArg State.sup s.returnUnsent_frame.1
  have h2 := congrArg (fun t : State => t.tx.dacWord) s.returnUnsent_frame.1
  unfold State.loseClock
  generalize s.returnUnsent = t at h1 h2
  split
  · simp only
    split
    · rw [(State.noticed_clock (State.changeChannel_effect _ _ _)).1, (State.noticed_clock (State.changeChannel_effect _ _ _)).2]
      exact ⟨h1, h2⟩
    · rw [(State.stopChannel_clock _ _).1, (State.stopChannel_clock _ _).2]
      exact ⟨h1, h2⟩
  · exact ⟨rfl, rfl⟩

/-- A loss of the reference leaves the source Internal, the measurement and the tick count at 0 and the phase as it was (R184). -/
theorem State.loseReference_clock (s : State) :
    s.loseReference.sup = { s.sup with clock := .internal, restore := .measuring 0, fallbackTicks := 0 } ∧
      s.loseReference.tx.dacWord = none := by
  obtain ⟨h, g⟩ := State.loseClock_clock
    ({ s with
      sup := { s.sup with clock := .internal, restore := .measuring 0, fallbackTicks := 0 }
      tx := { s.tx with dacWord := none } }.raiseNotice .every (clockFallbackNotice s.channel.state s.channel.cycle))
  exact ⟨h, g⟩

/-- No clock period passes while a tick or a restore is due (log entry 10). -/
theorem State.clockPeriod_due (s : State) (h : s.tickDue = true ∨ s.restoreDue = true) : s.clockPeriod = s := by
  unfold State.clockPeriod
  rcases h with h | h <;> simp [h]

/-- A clock period touches the phase, the measurement and the count of the free values read, and takes neither the phase nor the
measurement past a second (R183, R185). -/
theorem State.clockPeriod_frame (s : State) :
    { s.clockPeriod with sup := s.sup, edgesRead := s.edgesRead } = s ∧
      s.clockPeriod.sup = { s.sup with
        tickPhase := s.clockPeriod.sup.tickPhase, restore := s.clockPeriod.sup.restore } ∧
      (s.sup.tickPhase ≤ 9830400 → s.clockPeriod.sup.tickPhase ≤ 9830400) ∧
      ∀ n, s.clockPeriod.sup.restore = .measuring n → s.sup.restore = .measuring n ∨ n ≤ 9830400 := by
  unfold State.clockPeriod
  split
  · exact ⟨rfl, rfl, id, fun _ h => Or.inl h⟩
  · rename_i h
    have phase : s.sup.tickPhase + 1 ≤ 9830400 := by
      have := mt (fun g => show (_ || _ || _) = true by rw [show s.tickDue = true from decide_eq_true g]; simp) h
      exact Nat.not_le.mp this
    cases s.sup.clock
    · exact ⟨rfl, rfl, fun _ => phase, fun _ g => Or.inl g⟩
    · refine ⟨rfl, rfl, fun _ => phase, fun n g => Or.inr ?_⟩
      cases hr : s.sup.restore <;> simp only [hr, RestoreQual.advanced, RestoreQual.measuring.injEq, reduceCtorEq] at g
      subst g
      exact Nat.min_le_left _ _

end Sys2Proof.Machine
end

