-- ==== Sys2Proof/Laws/Synthesis.lean ====
section
/-! SUPPORT. The sine table holds the sine (R140). The unit vector at one eighth of a table step is enclosed by its series; its
powers, taken in exact integers, then enclose the sine at every entry of the first half turn. -/

namespace Sys2Proof.Machine

open Sys2Proof

/-- Integer coordinates, scaled by 10^18, of the unit vector at angle pi / 1024. -/
def eighthStep : Int × Int := (999995293809576170, 3067956762965976)

/-- The product of two integer vectors as complex numbers. -/
def rotated (z w : Int × Int) : Int × Int := (z.1 * w.1 - z.2 * w.2, z.1 * w.2 + z.2 * w.1)

/-- The powers of a vector. -/
def rotations (z : Int × Int) : Nat → Int × Int
  | 0 => (1, 0)
  | n + 1 => rotated (rotations z n) z

/-- An integer vector as a complex number. -/
noncomputable def asComplex (z : Int × Int) : ℂ := z.1 + z.2 * Complex.I

theorem asComplex_rotations (z : Int × Int) (n : Nat) : asComplex (rotations z n) = asComplex z ^ n := by
  induction n with
  | zero => simp [rotations, asComplex]
  | succ n ih =>
    rw [pow_succ, ← ih]
    simp only [rotations, rotated, asComplex]
    push_cast
    linear_combination -((rotations z n).2 * z.2 : ℂ) * Complex.I_sq

/-- Powers of two vectors in the unit disk part at most as fast as the vectors, once for each factor. -/
theorem norm_pow_sub_pow_le (z w : ℂ) (hz : ‖z‖ ≤ 1) (hw : ‖w‖ ≤ 1) (n : Nat) : ‖z ^ n - w ^ n‖ ≤ n * ‖z - w‖ := by
  induction n with
  | zero => simp
  | succ n ih =>
    have h : z ^ (n + 1) - w ^ (n + 1) = z ^ n * (z - w) + (z ^ n - w ^ n) * w := by ring
    have hp : ‖z ^ n‖ ≤ 1 := by rw [norm_pow]; exact pow_le_one₀ (norm_nonneg _) hz
    calc ‖z ^ (n + 1) - w ^ (n + 1)‖ ≤ ‖z ^ n‖ * ‖z - w‖ + ‖z ^ n - w ^ n‖ * ‖w‖ := by
          rw [h]; exact (norm_add_le _ _).trans (by rw [norm_mul, norm_mul])
      _ ≤ 1 * ‖z - w‖ + n * ‖z - w‖ * 1 := by gcongr
      _ = (n + 1 : Nat) * ‖z - w‖ := by push_cast; ring

/-- The angle of one eighth of a table step. -/
noncomputable def eighthAngle : ℝ := Real.pi / 1024

/-- The unit vector at that angle, enclosed. -/
theorem eighthStep_close :
    ‖Complex.exp (eighthAngle * Complex.I) - asComplex eighthStep / 10 ^ 18‖ ≤ 2 / 10 ^ 11 ∧ ‖asComplex eighthStep / 10 ^ 18‖ ≤ 1 := by
  have lo := Real.pi_gt_d20
  have hi := Real.pi_lt_d20
  set x := eighthAngle with hx
  have hx1 : x = Real.pi / 1024 := rfl
  have x0 : 0 < x := by rw [hx1]; positivity
  have xlo : 0.00306796157577128245 ≤ x := by rw [hx1]; linarith
  have xhi : x ≤ 0.00306796157577128246 := by rw [hx1]; linarith
  have xs : |x| ≤ 1 := by rw [abs_of_pos x0]; linarith
  have hs := Real.sin_bound xs
  have hc := Real.cos_bound xs
  rw [abs_of_pos x0] at hs hc
  have x2lo : 0.00306796157577128245 ^ 2 ≤ x ^ 2 := by gcongr
  have x2hi : x ^ 2 ≤ 0.00306796157577128246 ^ 2 := by gcongr
  have x3lo : 0.00306796157577128245 ^ 3 ≤ x ^ 3 := by gcongr
  have x3hi : x ^ 3 ≤ 0.00306796157577128246 ^ 3 := by gcongr
  have x4hi : x ^ 4 ≤ 0.00306796157577128246 ^ 4 := by gcongr
  have x5hi : x ^ 5 ≤ 0.00306796157577128246 ^ 5 := by gcongr
  have hs' : |Real.sin x - 0.003067956762965976| ≤ 1 / 10 ^ 11 := by
    rw [abs_le] at hs ⊢
    constructor <;> norm_num at * <;> linarith [hs.1, hs.2]
  have hc' : |Real.cos x - 0.999995293809576170| ≤ 1 / 10 ^ 11 := by
    rw [abs_le] at hc ⊢
    constructor <;> norm_num at * <;> linarith [hc.1, hc.2]
  constructor
  · have e : Complex.exp (x * Complex.I) - asComplex eighthStep / 10 ^ 18 =
        ((Real.cos x - 0.999995293809576170 : ℝ) : ℂ) + ((Real.sin x - 0.003067956762965976 : ℝ) : ℂ) * Complex.I := by
      rw [Complex.exp_mul_I]
      simp only [asComplex, eighthStep]
      push_cast
      ring
    rw [e]
    refine (norm_add_le _ _).trans ?_
    rw [norm_mul, Complex.norm_I, Complex.norm_real, Complex.norm_real, Real.norm_eq_abs, Real.norm_eq_abs]
    linarith
  · have e : asComplex eighthStep / 10 ^ 18 = ((0.999995293809576170 : ℝ) : ℂ) + ((0.003067956762965976 : ℝ) : ℂ) * Complex.I := by
      simp only [asComplex, eighthStep]
      push_cast
      ring
    rw [e, Complex.norm_add_mul_I]
    exact Real.sqrt_le_one.mpr (by norm_num)

/-- Every entry of the first half of the table is the rounded sine of its power, with a margin left for the enclosure. -/
theorem sineHalf_margin : ∀ k < 128,
    (sineHalf k * 10 ^ (18 * (8 * k)) - 2047 * (rotations eighthStep (8 * k)).2).natAbs * 10000 ≤ 4999 * 10 ^ (18 * (8 * k)) := by
  decide +kernel

/-- Entry `k` of the first half of the table is 2,047 sin(2 pi k / 256) to the nearest integer (R140). -/
theorem sineHalf_nearest {k : Nat} (h : k < 128) : |(sineHalf k : ℝ) - 2047 * Real.sin (2 * Real.pi * k / 256)| ≤ 1 / 2 := by
  obtain ⟨close, unit⟩ := eighthStep_close
  have hz : ‖Complex.exp (eighthAngle * Complex.I)‖ ≤ 1 := by rw [Complex.norm_exp_ofReal_mul_I]
  have hp := norm_pow_sub_pow_le _ _ hz unit (8 * k)
  rw [← Complex.exp_nat_mul, div_pow, ← asComplex_rotations] at hp
  have hi := (Complex.abs_im_le_norm _).trans hp
  have e1 : (Complex.exp ((8 * k : Nat) * (eighthAngle * Complex.I))).im = Real.sin (2 * Real.pi * k / 256) := by
    have : ((8 * k : Nat) : ℂ) * (eighthAngle * Complex.I) = ((2 * Real.pi * k / 256 : ℝ) : ℂ) * Complex.I := by
      simp only [eighthAngle]; push_cast; ring
    rw [this, Complex.exp_ofReal_mul_I_im]
  have e2 : (asComplex (rotations eighthStep (8 * k)) / (10 ^ 18) ^ (8 * k)).im =
      ((rotations eighthStep (8 * k)).2 : ℝ) / 10 ^ (18 * (8 * k)) := by
    have : asComplex (rotations eighthStep (8 * k)) / (10 ^ 18) ^ (8 * k) =
        (((rotations eighthStep (8 * k)).1 / 10 ^ (18 * (8 * k)) : ℝ) : ℂ) +
          (((rotations eighthStep (8 * k)).2 / 10 ^ (18 * (8 * k)) : ℝ) : ℂ) * Complex.I := by
      simp only [asComplex]; push_cast; rw [← pow_mul]; ring
    rw [this]
    generalize (((rotations eighthStep (8 * k)).1 : ℝ) / 10 ^ (18 * (8 * k))) = a
    generalize (((rotations eighthStep (8 * k)).2 : ℝ) / 10 ^ (18 * (8 * k))) = b
    simp
  rw [Complex.sub_im, e1, e2] at hi
  have hn : ((8 * k : Nat) : ℝ) ≤ 1016 := by exact_mod_cast (by omega : 8 * k ≤ 1016)
  have hb : |Real.sin (2 * Real.pi * k / 256) - ((rotations eighthStep (8 * k)).2 : ℝ) / 10 ^ (18 * (8 * k))| ≤ 1016 * (2 / 10 ^ 11) :=
    hi.trans (by gcongr)
  have hm := sineHalf_margin k h
  generalize 18 * (8 * k) = n at hm hb
  generalize (rotations eighthStep (8 * k)).2 = y at hm hb
  generalize sineHalf k = v at hm
  generalize Real.sin (2 * Real.pi * k / 256) = u at hb
  have hm' : |(v : ℝ) - 2047 * (y / 10 ^ n)| ≤ 4999 / 10000 := by
    have hN : (0 : ℝ) < 10 ^ n := by positivity
    have : (v : ℝ) - 2047 * (y / 10 ^ n) = ((v * 10 ^ n - 2047 * y : Int) : ℝ) / 10 ^ n := by
      push_cast; field_simp
    have h' : (((v * 10 ^ n - 2047 * y).natAbs : Nat) : ℝ) * 10000 ≤ 4999 * 10 ^ n := by exact_mod_cast hm
    rw [Nat.cast_natAbs, Int.cast_abs] at h'
    rw [this, abs_div, abs_of_pos hN, div_le_iff₀ hN]
    linarith
  rw [abs_le] at *
  constructor <;> norm_num at * <;> linarith [hm'.1, hm'.2, hb.1, hb.2]

/-- Entry `k` of the sine table is 2,047 sin(2 pi k / 256) to the nearest integer (R140). -/
theorem sine_nearest {k : Nat} (h : k < 256) : |(sine k : ℝ) - 2047 * Real.sin (2 * Real.pi * k / 256)| ≤ 1 / 2 := by
  unfold sine
  split
  · exact sineHalf_nearest ‹_›
  · have hk : ((k - 128 : Nat) : ℝ) = k - 128 := by rw [Nat.cast_sub (by omega)]; rfl
    have e : Real.sin (2 * Real.pi * k / 256) = -Real.sin (2 * Real.pi * (k - 128 : Nat) / 256) := by
      rw [hk, ← Real.sin_add_pi]; congr 1; ring
    have := sineHalf_nearest (k := k - 128) (by omega)
    rw [e, ← abs_neg]
    push_cast
    convert this using 2
    ring

end Sys2Proof.Machine
end

