-- ==== Sys2Proof/Tests/Slice0.lean ====
section
/-! SUPPORT. Tests on small states: the well-formedness smoke test, the spelling of request frames, the manual's worked cases
and figures, and for each obligation with hypotheses a witness that meets them. Expected values come from the manual or from
hand calculation by its rules. -/

namespace Sys2Proof.Tests

-- One theorem after another: the kernel evaluations need no thread each.
set_option Elab.async false

open Sys2Proof Sys2Proof.Machine

/-! ### States -/

/-- The part in normal operation, a frame open at each port: the self-test has passed; Ports A and B are of Dispatch class,
Port C of Station class. -/
def idle : State :=
  { State.reset with
    sup := { State.reset.sup with selfTest := .ended ⟨false, false, false, false⟩ }
    ports := ⟨⟨.dispatch, .receiving, [], false, true⟩, ⟨.dispatch, .receiving, [], false, true⟩,
      ⟨.station, .receiving, [], false, true⟩⟩ }

/-- The same part in fault mode. -/
def faulty : State := { idle with sup := { idle.sup with selfTest := .ended ⟨false, true, false, false⟩ } }

/-- The same part before the self-test has ended. -/
def testing : State := { idle with sup := { idle.sup with selfTest := .testing } }

/-- A Digital member with an address, group 1, qualifications and a default ETA. -/
def pagerMember (address : BitVec 20) (quals : Quals) (eta : Nat) (engagement : Engagement) : Member :=
  ⟨true, .digital address 1, quals, eta, .available, .port .c, engagement, none⟩

/-- Plan 2 of the worked sequence of chapter 2, run by `n` callouts: Group page {1, 3}; Tone call 4; Shortfall page; Aid
request. -/
def firePlan (n : Nat) : Plan :=
  { template := ⟨1, 1, 2, 5, 420⟩
    steps := #v[.act (.groupPage 5 .threeQuarters) .always 60 1, .act (.toneCall 4) .ifShort 120 0,
      .act (.shortfallPage 16 .twoThirds) .ifShortOrLate 90 2, .act .aidRequest .ifShort 300 0, .finish, .finish, .finish,
      .finish]
    usage := n }

/-- The roster of the tests: members 3 (Officer, Driver) and 17 (Driver) Digital, 60 on a tone pager. -/
def roster (e3 e17 : Engagement) : Vector Member 96 :=
  ((State.reset.roster.set 3 (pagerMember 52357 ⟨true, true, false⟩ 5 e3)).set 17
    (pagerMember 7 ⟨false, true, false⟩ 4 e17)).set 60 ⟨true, .tone 4, ⟨false, false, true⟩, 9, .available, .port .c, .free, none⟩

/-- An entry of member 3, Attending with ETA 5 at elapsed 40, in the Officer seat. -/
def entry3 : Entry := ⟨3, .attending, some 5, .radio, 40, 40, some 340, false, .seated .officer⟩

/-- A crew with member 3 in the Officer seat. -/
def crew3 : Crew :=
  { applied := ⟨1, 1, 2, 1⟩, target := 420, roleOrder := [.wearer, .officer, .driver]
    seats := [⟨.officer, some 3⟩, ⟨.driver, none⟩, ⟨.wearer, none⟩, ⟨.wearer, none⟩, ⟨.crew, none⟩]
    missing := ⟨0, 1, 2, 1⟩, status := .short, ready := none }

/-- Callout 258 on plan 2, raised at Port A, at elapsed 100, with a lifecycle, a queue and a responder list. -/
def fire (lifecycle : Lifecycle) (queue : List TxItem) (entries : List Entry) : Callout :=
  { number := 258, reference := 70114, cls := 3, location := 1000, origins := ⟨true, false, false⟩, priority := 4,
    lifecycle := lifecycle, plan := 2, step := 0, serial := 1, elapsed := 100, pagedGroups := 5, pagedMembers := [17],
    tonesCalled := 0, queue := queue, entries := entries, crew := crew3 }

/-- A run of step 0 at rate 3/4 with one repeat left. -/
def running (progress : Progress) : Lifecycle := .active ⟨progress, 1, some .threeQuarters⟩

/-- Callout 258 Active, its two Group alerts queued, member 3 in the Officer seat. -/
def burning : Callout :=
  fire (running .queued) [⟨.groupAlert 0 .threeQuarters, 258, 1⟩, ⟨.groupAlert 2 .threeQuarters, 258, 1⟩] [entry3]

/-- The part with callout `c` in slot 0, member 3 engaged as given, plan 2 run by `n` callouts, and the serial counter at
259. -/
def withCallout (c : Callout) (n : Nat) (e3 : Engagement) : State :=
  { idle with roster := roster e3 .free, plans := idle.plans.set 2 (firePlan n), slots := idle.slots.set 0 (some c), serialCounter := 259 }

/-- The part with callout 258 Active in slot 0 and member 3 Assigned to it. -/
def ablaze : State := withCallout burning 1 (.assigned 258)

/-- The part with plan 2 runnable and no callout. -/
def planned : State := { idle with roster := roster .free .free, plans := idle.plans.set 2 (firePlan 0), serialCounter := 258 }

/-- A state with its channel in a state, at a position, with a plan and a keyed site. -/
def onChannel (s : State) (st : ChannelState) (pos : CyclePos) (plan : List PlannedItem) (keyed : Option Site) : State :=
  { s with channel := { s.channel with state := st, cycle := 612, pos := pos, plan := plan, keyed := keyed } }

/-- The callout's two Group alerts as a cycle plan holds them, the first in a state. -/
def airPlan (first : ItemState) : List PlannedItem :=
  [⟨⟨.groupAlert 0 .threeQuarters, 258, 1⟩, 240, 158, first⟩, ⟨⟨.groupAlert 2 .threeQuarters, 258, 1⟩, 398, 158, .pending⟩]

/-- The callout with its two Group alerts on their way. -/
def alerting : Callout := fire (running .alerting) [] [entry3]

/-- The callout on the air: the channel Running with site A keyed, at a position, the first alert in a state. -/
def onAir (first : ItemState) (position : Nat) : State :=
  onChannel (withCallout alerting 1 (.assigned 258)) .running (.cycle position) (airPlan first) (some .a)

/-- A state with its port `p` of Station class (its other levels kept). -/
def asStation (s : State) (p : Port) : State := s.setPort p { s.port p with cls := .station }

/-- The levels of ready inputs and SITE used here: both sites ready, SITE low. -/
def bothReady : SitePins := ⟨true, true, false⟩

/-- A state with its tick phase at `n` of the 9,830,400 parts of a second. -/
def phased (n : Nat) (s : State) : State := { s with sup := { s.sup with tickPhase := n } }

/-- A state on the internal clock, its restore qualification having measured `n` reference periods. -/
def measuring (n : Nat) (s : State) : State := { s with sup := { s.sup with clock := .internal, restore := .measuring n } }

/-- The state a command leaves, the state itself if it answers none. -/
def after (c : Instr) (s : State) : State :=
  match exec c s with
  | .next t => t
  | _ => s

/-- The response in hand at a port. -/
def answer (c : Instr) (p : Port) (s : State) : List Byte :=
  match ((after c s).port p).frame with
  | .responding b => b
  | _ => []

/-! ### Well-formedness and the spelling of commands -/

theorem test_wellFormed_unknownRequest : (Instr.unknownRequest .a 6).wellFormed = true := by decide
theorem test_wellFormed_refuses_named_code : (Instr.unknownRequest .a 1).wellFormed = false := by decide

theorem test_decodeTableWord : decodeTableWord 8 17 = none ∧ decodeTableWord 0 0 = none := by decide

/-- The Raise of the worked sequence of chapter 9: code 1, reference 70,114 = 0111E2H, plan 2, priority 4, class 3, location
1,000 = 0003E8H (R164, 11.2). -/
theorem test_frame_raise :
    decodeFrame .a bothReady [1, 0, 1, 0x11, 0xE2, 2, 4, 3, 0, 3, 0xE8] = some (.raise .a 70114 2 4 3 1000) := by decide +kernel

/-- Closed after byte 10, the same frame spells nothing (R166). -/
theorem test_frame_raise_short : decodeFrame .a bothReady [1, 0, 1, 0x11, 0xE2, 2, 4, 3, 0, 3] = none := by decide +kernel

/-- Record reply: member, callout 258 = 0102H, Attending, ETA 3 present (11.2). -/
theorem test_frame_recordReply :
    decodeFrame .c bothReady [8, 30, 1, 2, 0, 0x83] = some (.recordReply .c 30 258 0 0x83) := by decide +kernel

/-- Write member: member 30, in use, Digital, address 52,357 = 00CC85H, tone group 0, Driver, groups 5, ETA 4, Available. -/
theorem test_frame_writeMember :
    decodeFrame .c bothReady [16, 30, 1, 1, 0, 0xCC, 0x85, 0, 2, 0, 5, 4, 0] =
      some (.writeMember .c 30 1 1 52357 0 2 5 4 0) := by decide +kernel

/-- Write template 2 of chapter 2: 1, 1, 2, 5, 420 = 01A4H. -/
theorem test_frame_writeTemplate :
    decodeFrame .c bothReady [25, 2, 1, 1, 2, 5, 1, 0xA4] = some (.writeTemplate .c 2 1 1 2 5 420) := by decide +kernel

/-- Write tone frequency, entry 7 with 11,534 = 2D0EH; bytes after the request are ignored. -/
theorem test_frame_writeToneFrequency :
    decodeFrame .c bothReady [32, 7, 0x2D, 0x0E, 99] = some (.writeToneFrequency .c 7 11534) := by decide +kernel

theorem test_frame_readNotice : decodeFrame .b bothReady [48] = some (.readNotice .b) := by decide +kernel
theorem test_frame_readCrew : decodeFrame .b bothReady [43, 1, 2] = some (.readCrew .b 258) := by decide +kernel
theorem test_frame_startChannel : decodeFrame .c bothReady [57] = some (.startChannel .c bothReady) := by decide +kernel
theorem test_frame_unknown : decodeFrame .b bothReady [6, 1] = some (.unknownRequest .b 6) := by decide +kernel

/-- Read member of member 30 as it is clocked: 17 = 00010001B, 30 = 00011110B. One bit short it spells nothing (R164 to R166). -/
theorem test_bits_readMember :
    let bits := [false, false, false, true, false, false, false, true, false, false, false, true, true, true, true, false]
    decodeBits .a bothReady bits = some (.readMember .a 30) ∧ decodeBits .a bothReady (bits.take 15) = none := by decide +kernel

/-! ### Steps and frames -/

theorem test_step_takes_front :
    step { idle with pending := [.frameClose .a, .frameClose .b] } =
      .next { (idle.setPort .a { idle.port .a with frame := .closed, selLow := false }) with pending := [.frameClose .b] } := rfl

/-- R166: a select line that is low when the reset ends opens no frame. -/
theorem test_frameOpen_needs_high : after (.frameOpen .a) idle = idle := by decide +kernel

theorem test_frameOpen : (after (.frameOpen .a) State.reset).port .a = ⟨.dispatch, .receiving, [], false, true⟩ := by
  decide +kernel

/-- R167: Busy during the self-test, and Unknown for code 6 all the same. -/
theorem test_busy : answer (.readStatus .a) .a testing = [2] ∧ answer (.unknownRequest .a 6) .a testing = [8] := by
  decide +kernel

/-- R167: in fault mode a Raise is refused with Fault, and Start channel from a Dispatch port with Class. -/
theorem test_fault : answer (.raise .a 1 2 0 0 0) .a faulty = [7] ∧ answer (.startChannel .a bothReady) .a faulty = [3] := by
  decide +kernel

/-- R178: Read status right after the self-test, from Port A: code limits as the table of 11.2 lays them out. -/
theorem test_readStatus_length : (answer (.readStatus .a) .a idle).length = 16 := by decide +kernel

/-! ### Roster, plans, tone tables -/

/-- R23: target 30 is stored as 60, and crew total 3 is raised to the role sum 4 (chapter 2, stage 3). -/
theorem test_writeTemplate_clamps :
    (after (.writeTemplate .c 2 1 1 2 3 30) idle).plans[2].template = ⟨1, 1, 2, 4, 60⟩ := by decide +kernel

/-- R27 check 7: step 0 of an unwritten template is refused with State (chapter 2, stage 2). -/
theorem test_writePlanStep_unwritten : answer (.writePlanStep .c 2 0 1 5 0 9 0 60 1 2) .c idle = [5] := by decide +kernel

/-- R27: tone call 4, If short, hold 5 stored as 10, the rate discarded (chapter 2, stage 5). -/
theorem test_writePlanStep_clamps :
    (after (.writePlanStep .c 2 1 3 0 0 4 1 5 0 2) planned).plans[2].steps[1] = .act (.toneCall 4) .ifShort 10 0 := by
  decide +kernel

/-- R27 check 2: a plan in use takes no write (chapter 2, stage 7). -/
theorem test_writePlanStep_in_use : answer (.writePlanStep .c 2 2 2 0 8 0 2 90 2 1) .c ablaze = [5] := by decide +kernel

/-- R16: a new Digital record is stored with its fields, and an Availability notice goes to Port C. -/
theorem test_writeMember :
    (after (.writeMember .c 30 1 1 52360 0 2 5 99 0) planned).member 30 =
      ⟨true, .digital 52360 5, ⟨false, true, false⟩, 30, .available, .port .c, .free, none⟩ ∧
    ((after (.writeMember .c 30 1 1 52360 0 2 5 99 0) planned).port .c).queue = [⟨.availability, 0, 30, 0, 3, 0, 0⟩] := by
  decide +kernel

/-- R17: an address that another in-use Digital member holds is answered State. -/
theorem test_writeMember_address_taken : answer (.writeMember .c 30 1 1 52357 0 2 5 9 0) .c planned = [5] := by decide +kernel

/-- R10: an Availability notice even when the value is the one held. -/
theorem test_setAvailability :
    ((after (.setAvailability .a 3 0) planned).port .c).queue = [⟨.availability, 0, 3, 0, 1, 0, 0⟩] ∧
    ((after (.setAvailability .a 3 0) planned).port .a).queue = [] := by decide +kernel

theorem test_readMember_range : answer (.readMember .a 96) .a planned = [4] := by decide +kernel
/-- R164: the response Range = 4 = 00000100B on SDO, most significant bit first, and zeros after it; zeros before the take, and
nothing driven after the close. -/
theorem test_responseBits :
    (List.range 9).map ((after (.readMember .a 96) planned).responseBit .a) =
      [false, false, false, false, false, true, false, false, false].map some ∧
    planned.responseBit .a 5 = some false ∧ (after (.frameClose .a) planned).responseBit .a 5 = none := by decide +kernel

theorem test_readPlan : (answer (.readPlan .a 2) .a ablaze).take 8 = [0, 1, 1, 2, 5, 1, 0xA4, 1] := by decide +kernel
theorem test_readToneTables : (answer (.readToneTables .a) .a idle).length = 97 := by decide +kernel

/-- R147: 150 is stored as 3,000 and 40,000 as 30,000 (Worked figures: tone increments). -/
theorem test_writeToneFrequency :
    (after (.writeToneFrequency .c 7 150) idle).tx.frequencies[7] = 3000 ∧
    (after (.writeToneFrequency .c 7 40000) idle).tx.frequencies[7] = 30000 := by decide +kernel

theorem test_writeTonePair : (after (.writeTonePair .c 4 7 19) idle).tx.pairs[4] = ⟨7, 19⟩ := by decide +kernel

/-- Worked figures: tone increments. -/
theorem test_toneIncrement :
    [11534, 30000, 3000, 0].map toneIncrement = [7874, 20480, 2048, 0] := by decide +kernel

/-! ### Callouts -/

/-- R40: the number from the counter, plan 2's count, the Raised notice at the origin and at Port C, two Group alerts
queued by step 0 under serial 1, and the answer Done with the number 258. -/
theorem test_raise :
    answer (.raise .a 70114 2 4 3 1000) .a planned = [0, 1, 2] ∧
    (after (.raise .a 70114 2 4 3 1000) planned).plans[2].usage = 1 := by decide +kernel

theorem test_raise_queues :
    ((after (.raise .a 70114 2 4 3 1000) planned).slots[0].map fun c => (c.queue, c.lifecycle)) =
      some ([⟨.groupAlert 0 .threeQuarters, 258, 1⟩, ⟨.groupAlert 2 .threeQuarters, 258, 1⟩], running .queued) := by
  decide +kernel

/-- R37: number 258 has tag 2, so a counter at 322 (tag 2 too) passes over it, and the new number is 323. -/
theorem test_raise_passes_over :
    answer (.raise .a 5 2 4 3 1000) .a { ablaze with serialCounter := 322 } = [0, 1, 0x43] := by decide +kernel

/-- Callout 127 (tag 63, that of 65,535 too) in slot 0, the counter at 65,535. -/
def lastNumber : State := { planned with slots := planned.slots.set 0 (some { burning with number := 127, queue := [] }), serialCounter := 65535 }

/-- R37: 65,535 is passed over, the next number is 1, and the counter is then 2. -/
theorem test_raise_wraps :
    answer (.raise .a 5 2 4 3 1000) .a lastNumber = [0, 0, 1] ∧
    (after (.raise .a 5 2 4 3 1000) lastNumber).serialCounter = 2 := by decide +kernel

/-- R39 (chapter 2, stage 8): the same reference from Port B merges, whatever the plan; the priority rises to 6. -/
theorem test_raise_merges :
    answer (.raise .b 70114 5 6 0 0) .b ablaze = [1, 1, 2] ∧
    ((after (.raise .b 70114 5 6 0 0) ablaze).slots[0].map fun c => (c.origins, c.priority)) = some (⟨true, true, false⟩, 6) := by
  decide +kernel

/-- R51: an Escalate to the same plan starts it again at step 0 under the serial after next, its queue anew. -/
theorem test_escalate :
    ((after (.escalate .a 258 2) ablaze).slots[0].map fun c => (c.serial, c.queue.length)) = some (3, 2) ∧
    (after (.escalate .a 258 2) ablaze).plans[2].usage = 1 := by decide +kernel

/-- R50: Port B is neither Station nor an origin. -/
theorem test_escalate_class : answer (.escalate .b 258 2) .b ablaze = [3] := by decide +kernel

/-- R53: with the channel Stopped a Cancel frees the slot and the member, with a Freed notice, reason cancelled. -/
theorem test_cancel_stopped :
    (after (.cancel .a 258) ablaze).slots[0] = none ∧
    ((after (.cancel .a 258) ablaze).member 3).engagement = .free ∧
    ((after (.cancel .a 258) ablaze).port .a).queue = [⟨.freed, 258, 255, 2, 0, 0, 0⟩] := by decide +kernel

/-- R53: with the channel Running it stands down with two Stand-downs. -/
theorem test_cancel_running :
    ((after (.cancel .a 258) (onAir .onAir 300)).slots[0].map fun c => (c.lifecycle, c.queue)) =
      some (.standingDown 0, [⟨.standDown, 258, 2⟩, ⟨.standDown, 258, 2⟩]) := by decide +kernel

/-- R55: departed with the channel Stopped: no Closing, the count lowered, the crew frozen. -/
theorem test_markDeparted :
    ((after (.markDeparted .c 258) ablaze).slots[0].map fun c => (c.lifecycle, c.queue, c.crew)) = some (.departed, [], crew3) ∧
    (after (.markDeparted .c 258) ablaze).plans[2].usage = 0 := by decide +kernel

/-- R56. -/
theorem test_release :
    let s := withCallout (fire .departed [] [entry3]) 0 (.assigned 258)
    (after (.release .a 258) s).slots[0] = none ∧ ((after (.release .a 258) s).member 3).engagement = .free := by
  decide +kernel

theorem test_readCallout_length : (answer (.readCallout .a 258) .a ablaze).length = 34 := by decide +kernel
theorem test_readResponders : (answer (.readResponders .a 258) .a ablaze).length = 16 := by decide +kernel
theorem test_readCrew_length : (answer (.readCrew .a 258) .a ablaze).length = 53 := by decide +kernel
theorem test_listCallouts : (answer (.listCallouts .a) .a ablaze).take 4 = [0, 1, 2, 1] := by decide +kernel

/-- R48: a hold with a deadline of 101 is due at the tick that brings elapsed to 101. -/
theorem test_tick_marks_hold :
    ((after .oneSecondTick (phased 9830400
      (withCallout (fire (running (.holding 101 false)) [] [entry3]) 1 (.assigned 258)))).slots[0].map
      fun c => (c.elapsed, c.lifecycle)) = some (101, running (.holding 101 true)) := by decide +kernel

/-- R183: one part short of a second there is no tick. -/
theorem test_tick_not_due : after .oneSecondTick (phased 9830399 ablaze) = phased 9830399 ablaze := by decide +kernel

/-- R48: the one repeat of step 0 pages its two groups at the rate 2/3 (chapter 2, last paragraph). -/
theorem test_holdExpiry_repeats :
    ((after .holdExpiry (withCallout (fire (running (.holding 100 true)) [] [entry3]) 1 (.assigned 258))).slots[0].map
      fun c => (c.queue, c.lifecycle)) =
      some ([⟨.groupAlert 0 .twoThirds, 258, 2⟩, ⟨.groupAlert 2 .twoThirds, 258, 2⟩],
        .active ⟨.queued, 0, some .twoThirds⟩) := by decide +kernel

/-! ### Replies and crews -/

/-- R68, R75: a Record reply of member 17, ETA 4, at elapsed 100: estimate 340, the Driver seat, and a Reply notice at Port C. -/
theorem test_recordReply :
    (after (.recordReply .c 17 258 0 0x84) ablaze).member 17 = pagerMember 7 ⟨false, true, false⟩ 4 (.assigned 258) ∧
    ((after (.recordReply .c 17 258 0 0x84) ablaze).port .c).queue.head? = some ⟨.reply, 258, 17, 0, 4, 3, 1⟩ := by
  decide +kernel

/-- R80, R102: the Dispatch-class origin hears of the new crew and not of the reply, and a Dispatch-class port that is no origin
of neither. -/
theorem test_crewStatus_reaches_origin :
    (((after (.recordReply .c 17 258 0 0x84) ablaze).port .a).queue.map (·.kind)) = [.crewStatus] ∧
    ((after (.recordReply .c 17 258 0 0x84) ablaze).port .b).queue = [] := by decide +kernel

/-- R69: member 3 marked Arrived at elapsed 100 has the estimate 100. -/
theorem test_markArrived :
    ((after (.markArrived .c 3 258) ablaze).slots[0].map fun c => c.entries) =
      some [⟨3, .arrived, none, .port .c, 40, 100, some 100, false, .seated .officer⟩] := by decide +kernel

/-- R71: the hand-off of member 60, who was not paged, is dropped. -/
theorem test_calloutReply_unpaged :
    after .calloutReply { ablaze with handOffs := [⟨60, .attending, none, 258⟩] } = ablaze := by decide +kernel

/-- R70: the hand-off of member 17, who was paged, is recorded with source Radio. -/
theorem test_calloutReply :
    ((after .calloutReply { ablaze with handOffs := [⟨17, .declined, none, 258⟩] }).slots[0].map fun c => c.entries) =
      some [entry3, ⟨17, .declined, none, .radio, 100, 100, none, false, .unseated⟩] := by decide +kernel

/-- The members that hold each seat of an assignment, in seat-list order. -/
def seatsOf (w : Crew) : List (SeatRole × Option MemberIdx) := w.seats.map fun x => (x.role, x.member)

/-- Worked case: a structure-fire crew. -/
theorem test_crew_structure_fire :
    let w := assemble ⟨1, 1, 2, 5, 420⟩ [⟨44, 150, ⟨false, false, false⟩⟩, ⟨3, 340, ⟨true, true, false⟩⟩, ⟨17, 295, ⟨false, true, false⟩⟩,
      ⟨21, 420, ⟨false, true, true⟩⟩, ⟨30, 270, ⟨false, false, true⟩⟩, ⟨52, 580, ⟨true, false, true⟩⟩]
    seatsOf w = [(.officer, some 3), (.driver, some 17), (.wearer, some 30), (.wearer, some 21), (.crew, some 44)] ∧
      w.roleOrder = [.officer, .wearer, .driver] ∧ w.status = .ready ∧ w.ready = some 420 := by decide +kernel

/-- The case continued: a driver stands down. -/
theorem test_crew_driver_stands_down :
    let w := assemble ⟨1, 1, 2, 5, 420⟩ [⟨44, 150, ⟨false, false, false⟩⟩, ⟨3, 340, ⟨true, true, false⟩⟩,
      ⟨21, 420, ⟨false, true, true⟩⟩, ⟨30, 270, ⟨false, false, true⟩⟩, ⟨52, 580, ⟨true, false, true⟩⟩]
    seatsOf w = [(.officer, some 3), (.driver, some 21), (.wearer, some 30), (.wearer, some 52), (.crew, some 44)] ∧
      w.roleOrder = [.officer, .driver, .wearer] ∧ w.status = .late ∧ w.ready = some 580 := by decide +kernel

/-- Worked case: protection keeps the last driver. -/
theorem test_crew_protection :
    let w := assemble ⟨1, 1, 2, 5, 360⟩ [⟨8, 100, ⟨false, true, true⟩⟩, ⟨5, 120, ⟨true, true, false⟩⟩, ⟨9, 150, ⟨false, true, true⟩⟩,
      ⟨30, 200, ⟨false, false, false⟩⟩, ⟨12, 300, ⟨false, false, true⟩⟩, ⟨6, 500, ⟨true, false, false⟩⟩]
    seatsOf w = [(.officer, some 5), (.driver, some 9), (.wearer, some 8), (.wearer, some 12), (.crew, some 30)] ∧
      w.status = .ready ∧ w.ready = some 300 := by decide +kernel

/-- The case continued: the order changes. -/
theorem test_crew_order_changes :
    let w := assemble ⟨1, 1, 2, 5, 360⟩ [⟨8, 100, ⟨false, true, true⟩⟩, ⟨5, 120, ⟨true, true, false⟩⟩, ⟨9, 150, ⟨false, true, true⟩⟩,
      ⟨30, 200, ⟨false, false, false⟩⟩, ⟨6, 500, ⟨true, false, false⟩⟩]
    seatsOf w = [(.officer, some 6), (.driver, some 5), (.wearer, some 8), (.wearer, some 9), (.crew, some 30)] ∧
      w.roleOrder = [.wearer, .officer, .driver] ∧ w.status = .late ∧ w.ready = some 500 := by decide +kernel

/-- Worked case: a seat taken from a scarce role. -/
theorem test_crew_scarce_role :
    let w := assemble ⟨0, 1, 2, 3, 360⟩ [⟨8, 100, ⟨false, true, true⟩⟩]
    seatsOf w = [(.driver, none), (.wearer, some 8), (.wearer, none)] ∧ w.missing = ⟨0, 1, 1, 0⟩ ∧ w.status = .short := by
  decide +kernel

/-- Worked case: estimates at the limit. -/
theorem test_crew_limit :
    let w := assemble ⟨0, 1, 0, 2, 900⟩ [⟨44, 3010, ⟨false, false, false⟩⟩, ⟨50, 4095, ⟨false, true, false⟩⟩,
      ⟨17, 4095, ⟨false, true, false⟩⟩]
    seatsOf w = [(.driver, some 17), (.crew, some 44)] ∧ w.status = .late ∧ w.ready = some 4095 := by decide +kernel

/-! ### The channel -/

/-- R116 (Worked case: planning one cycle): twelve Group alerts fit after 10,496 symbol times; a tone call no longer fits
the 5,176 left; of two Stand-downs one is planned. -/
theorem test_planTurns :
    (takeTurn 7264 false ((List.finRange 12).map fun g => ⟨.groupAlert g .twoThirds, 41, 1⟩)).1.length = 12 ∧
    takeTurn 5176 false [⟨.toneCall 6, 43, 1⟩] = ([], [⟨.toneCall 6, 43, 1⟩]) ∧
    (takeTurn 4860 false [⟨.standDown, 46, 2⟩, ⟨.standDown, 46, 2⟩]).1.length = 1 := by decide +kernel

/-- R108: Start channel keys site A at the plan point of cycle 1, with the two alerts planned at 240 and 398. -/
theorem test_startChannel :
    let t := after (.startChannel .c bothReady) ablaze
    t.channel.state = .running ∧ t.channel.keyed = some .a ∧ t.channel.cycle = 1 ∧ t.channel.plan = airPlan .pending := by
  decide +kernel

/-- R109: Stop channel in Running. -/
theorem test_stopChannel : (after (.stopChannel .c) (onAir .onAir 300)).channel.state = .stopping := by decide +kernel

/-- R111: refused unless Stopped; otherwise level 99 is stored as 15 and threshold 0 as 1. -/
theorem test_setChannelParameters :
    answer (.setChannelParameters .c 9 3 8 0 12) .c (onAir .onAir 300) = [5] ∧
    (after (.setChannelParameters .c 9 3 0 1 99) idle).channel =
      { idle.channel with station := 9, degradeThreshold := 1, mode := .pin, level := 15 } := by decide +kernel

/-- R119: a change of site is told to every port, cause request. -/
theorem test_selectSite :
    (after (.selectSite .c 1) idle).channel.selected = .b ∧
    ((after (.selectSite .c 1) idle).port .a).queue = [⟨.siteChanged, 0, 255, 16, 0, 0, 0⟩] := by decide +kernel

/-- R121, R124: site A not ready, B ready, Request mode: B is keyed and selected, cause failover. -/
theorem test_planPoint_failover :
    let t := after (.planPoint ⟨false, true, false⟩) (onChannel ablaze .running (.cycle 23760) [] none)
    t.channel.keyed = some .b ∧ t.channel.selected = .b ∧ t.channel.cycle = 613 := by decide +kernel

/-- R123, R126 (The case continued: site A drops out, on two alerts): both alerts return and callout 258 is Queued; the Site
fault notice names site A, keyed none, cause Ready lost, 2 items. -/
theorem test_readyLoss :
    let t := after (.readyLoss .a) (onAir .onAir 300)
    t.channel.keyed = none ∧
    (t.slots[0].map fun c => (c.lifecycle, c.queue.length)) = some (running .queued, 2) ∧
    (t.port .b).queue = [⟨.siteFault, 0, 255, 34, 2, 2, 0x64⟩] := by decide +kernel

/-- R47: after the first of two alerts the callout stays Alerting; after the last it holds until 160. -/
theorem test_completion :
    ((after .completion (onAir .onAir 398)).slots[0].map fun c => c.lifecycle) = some (running .alerting) ∧
    ((after .completion (onChannel (onAir .sent 556) .running (.cycle 556)
      [⟨⟨.groupAlert 2 .threeQuarters, 258, 1⟩, 398, 158, .onAir⟩] (some .a))).slots[0].map fun c => c.lifecycle) =
      some (running (.holding 160 false)) := by decide +kernel

/-- R125: a Closing or a Stand-down of an Active callout's number and serial moves nothing in it. -/
theorem test_completion_other_kind :
    [ItemKind.closing, .standDown].all fun kind =>
      (after .completion (onChannel (onAir .sent 464) .running (.cycle 464) [⟨⟨kind, 258, 1⟩, 240, 224, .onAir⟩] (some .a))).slots[0]
        = some alerting := by decide +kernel

/-- R132: once the last item has completed, a ready loss before the release of the PTT finds no keyed period and tells
nothing. -/
theorem test_readyLoss_spent :
    let plan : List PlannedItem := [⟨⟨.groupAlert 0 .threeQuarters, 258, 1⟩, 240, 158, .sent⟩]
    let s := onChannel (withCallout alerting 1 (.assigned 258)) .running (.cycle 398) plan (some .a)
    after (.readyLoss .a) s = s := by decide +kernel

/-- R122. -/
theorem test_keyedPeriodEnd : (after .keyedPeriodEnd (onAir .sent 556)).channel.keyed = none := by decide +kernel

/-! ### The transmit path -/

/-- Worked figures: encoding and puncturing. -/
theorem test_encoding :
    let coded := codedPairs 0 [true, false, true, true, false, false, false, false]
    punctured .half 0 coded = bitsOf 0b1101100011110111#16 ∧
    punctured .twoThirds 0 coded = bitsOf 0b110100111011#12 ∧
    punctured .threeQuarters 0 coded = bitsOf 0b11110011011#11 := by decide +kernel

/-- R134: the assembly of the first alert at B symbol 239; 158 symbols. -/
theorem test_frameAssembly :
    ((after .frameAssembly (onAir .pending 239)).tx.assembled.map List.length) = some 158 := by decide +kernel

/-- R145: tone group 4 with pair (7, 19) of 11,534 and 30,000. -/
theorem test_toneCallStart :
    let s := { ablaze with tx := { ablaze.tx with
      frequencies := (ablaze.tx.frequencies.set 7 11534).set 19 30000, pairs := ablaze.tx.pairs.set 4 ⟨7, 19⟩ } }
    let plan : List PlannedItem := [⟨⟨.toneCall 4, 258, 1⟩, 240, 9600, .pending⟩]
    (after .toneCallStart (onChannel s .running (.cycle 240) plan (some .a))).tx.tone = some ⟨240, 7874, 20480⟩ := by decide +kernel

/-- R150: a frame ends where a tone call starts; the completion of the frame, taken after the start, leaves the increments of
the call in hand. -/
theorem test_toneCall_survives_completion :
    let plan : List PlannedItem := [⟨⟨.groupAlert 0 .threeQuarters, 258, 1⟩, 240, 158, .onAir⟩,
      ⟨⟨.toneCall 4, 258, 1⟩, 398, 9600, .pending⟩]
    let s := after .toneCallStart (onChannel ablaze .running (.cycle 398) plan (some .a))
    (after .completion s).tx.tone.map (·.start) = some 398 ∧ (after .completion s).startingTone = none := by decide +kernel

/-- R143: the word 3,584 = 111000000000B goes out with its most significant bit first, DSFS marking it. -/
theorem test_dacBits :
    State.dacBits { idle with tx := { idle.tx with dacWord := some 3584 } } =
      (true, true) :: (true, false) :: (true, false) :: List.replicate 9 (false, false) := by decide +kernel

/-- R133: fill symbol 0 of a G section carries 1, increment 12,288. -/
theorem test_symbolTime :
    let t := after (.symbolTime ⟨false, false, false⟩) (onChannel idle .running (.lead false 0) [] (some .a))
    t.tx.increment = 12288 ∧ t.channel.pos = .lead false 1 := by decide +kernel

/-- Worked figures: the first samples of a keyed period, from a phase accumulator value after the add. -/
theorem test_sampleOf :
    [12288, 24576, 36864, 49152, 57344, 0, 8192, 16384].map (fun phase => sampleOf phase 12) =
      [3584, 3223, 1412, 385, 873, 2048, 3223, 3711] := by decide +kernel

/-- R141, R143: the first sample of a keyed period, and the rest of an unkeyed one. -/
theorem test_sampleTime :
    let s := onChannel idle .running (.lead false 1) [] (some .a)
    (after .sampleTime { s with tx := { s.tx with increment := 12288 } }).tx.dacWord = some 3584 ∧
    (after .sampleTime idle).tx.dacWord = some 2048 := by decide +kernel

/-! ### The reply receiver -/

/-- The buffer of the worked decode (chapter 8); `e` erased. -/
def burst : List RxValue :=
  let e := RxValue.erased
  let o := RxValue.zero
  let i := RxValue.one
  [o, o, o, o, o, o, o, o, o, o, e, e, i, o, o, o, i, i, o, i, i, i, i, i, o, i, o, i, i, o, e, e] ++
  [o, o, i, i, o, i, i, o, i, o, o, o, i, o, o, o, o, i, i, i, o, o, o, o]

/-- The receiver holding that cell, carrier present. -/
def burstReceived : Receiver := { Receiver.afterReset with buffer := Vector.ofFn fun i => burst.getD i .unfilled, carrier := .present }

/-- The worked word 00 00011 000010 0000101 1100. -/
def burstWord : BitVec 24 := 0b000001100001000001011100#24

theorem test_crc4 : crc4 ((bitsOf burstWord).take 20) = 0b1100#4 := by decide +kernel

/-- The worked codeword of chapter 8. -/
theorem test_codeword :
    codeword burstWord = bitsOf 0b00000000001110001101111101011011001101100000100001110000#56 := by decide +kernel

/-- Worked decode: the sent word at distance 1. -/
theorem test_decodeBurst : decodeBurst burst = (1, burstWord) := by decide +kernel

/-- The part at the end of cell 3 with the worked burst: member 3 has the address 52,357. -/
def cellHeard : State :=
  { onChannel ablaze .running (.cycle 18240) [] none with rx := burstReceived }

/-- The outcome of the worked decode: last heard, and the reply handed on to callout 258. -/
theorem test_cellEnd :
    ((after .cellEnd cellHeard).member 3).lastHeard = some 612 ∧
    (after .cellEnd cellHeard).handOffs = [⟨3, .attending, some 3, 258⟩] := by decide +kernel

/-- The cell of member 3 with the codeword of a status reply, Unavailable: 11 00000 000000 0000101 and its CRC-4, 0001. -/
def statusHeard : State :=
  let code := codeword 0b110000000000000001010001#24
  { cellHeard with rx := { burstReceived with buffer := Vector.ofFn fun i => if code.getD i false then .one else .zero } }

/-- R161: a status reply waits for the callout reply of an earlier cell, and is taken when that has been handled. -/
theorem test_cellEnd_waits :
    let s := { statusHeard with handOffs := [⟨17, .declined, none, 258⟩] }
    (after .cellEnd statusHeard).member 3 = { statusHeard.member 3 with
      availability := .unavailable, source := .pager, lastHeard := some 612 } ∧
      after .cellEnd s = s ∧ ((after .cellEnd (after .calloutReply s)).member 3).availability = .unavailable := by decide +kernel

/-- The same cell with the record rewritten to 52,360, low 7 bits 8: rejected (the second variation of chapter 8). -/
theorem test_cellEnd_rejected :
    (after .cellEnd { cellHeard with roster := cellHeard.roster.set 3 (pagerMember 52360 ⟨true, true, false⟩ 5 .free) }).rx.rejected = 1 := by
  decide +kernel

/-! ### Supervision -/

/-- R184, R129: a loss in Running suspends the channel and returns both alerts. -/
theorem test_referenceLost :
    let t := after .referenceLost (onAir .onAir 300)
    t.channel.state = .suspended ∧ t.sup.clock = .internal ∧ t.channel.keyed = none := by decide +kernel

/-- R185, R130: the restore resumes a Suspended channel in the next cycle. -/
theorem test_restored :
    let s := onChannel ablaze .suspended .absent [] none
    let t := after (.restored bothReady) { s with sup := { s.sup with clock := .internal, restore := .measuring 9830400, fallbackTicks := 1 } }
    t.channel.state = .running ∧ t.channel.pos = .lead true 0 ∧ t.channel.cycle = 613 ∧
      (t.port .b).queue.head? = some ⟨.clockRestored, 0, 255, 0, 1, 2, 0x64⟩ := by decide +kernel

/-- R185. -/
theorem test_restoreGap :
    (after .restoreGap (measuring 77 idle)).sup.restore = .measuring 0 := by decide +kernel

/-- R185: one reference period short of 1 s restores nothing. -/
theorem test_restored_not_due : after (.restored bothReady) (measuring 9830399 idle) = measuring 9830399 idle := by
  decide +kernel

/-- R186: a gap that is taken before the restore of the same moment leaves none to take, and one taken after it is a loss. -/
theorem test_restoreGap_against_restored :
    let s := measuring 9830400 idle
    after (.restored bothReady) (after .restoreGap s) = after .restoreGap s ∧
      (after .restoreGap (after (.restored bothReady) s)).sup.clock = .internal ∧
      (((after .restoreGap (after (.restored bothReady) s)).port .b).queue.map (·.kind)) = [.clockRestored, .clockFallback] := by
  decide +kernel

/-- R180: the held part drives no attention line, and the end of the reset samples the straps. -/
theorem test_reset :
    (after .reset ablaze).attention .c = false ∧
    ((after (.resetEnd ⟨true, false, true, false, false, false⟩) (after .reset ablaze)).port .a).cls = .station := by
  decide +kernel

/-- R181: the end of the self-test with the Callouts group failed. -/
theorem test_selfTestEnd : (after (.selfTestEnd ⟨false, true, false, false⟩) testing).faultMode = true := by decide +kernel

/-! ### The laws hold of states that are not empty

Each of the next theorems is the witness for the obligation that every step keeps the law: `ablaze` and `onAir` meet it, and
`witness_steps` shows a step from each that answers a next state. The laws read every field but the queue of commands. -/

/-- The callout in each slot of `ablaze`. -/
theorem ablaze_slots (k : SlotIdx) : ablaze.slots[k] = if k = 0 then some burning else none := by
  revert k; decide +kernel

theorem ablaze_slot {k : SlotIdx} {c : Callout} (h : c ∈ ablaze.slots[k]) : k = 0 ∧ c = burning := by
  rw [ablaze_slots] at h
  split at h <;> simp_all

theorem ablaze_plans (i : PlanIdx) : ablaze.plans[i] = if i = 2 then firePlan 1 else Plan.cleared := by
  revert i; decide +kernel

theorem ablaze_engaged (m : MemberIdx) :
    (ablaze.member m).engagement = if m = 3 then .assigned 258 else .free := by
  revert m; decide +kernel

/-- A step of each with a command that acts. -/
theorem witness_steps :
    (∃ t, step { ablaze with pending := [.cancel .a 258] } = .next t) ∧
      ∃ t, step { onAir .onAir 300 with pending := [.readyLoss .a] } = .next t := ⟨⟨_, rfl⟩, _, rfl⟩

theorem witness_NoticeQueuesStayBounded : ({ ablaze with pending := [.cancel .a 258] } : State).queuesBounded := by
  intro p; cases p <;> decide +kernel

theorem witness_PagerAddressesStayDistinct : ablaze.addressesDistinct := by
  refine ⟨by decide +kernel, ?_⟩
  have h : ∀ m : MemberIdx, (ablaze.member m).address = if m = 3 then some 52357 else if m = 17 then some 7 else none := by
    decide +kernel
  intro m k
  rw [h, h]
  split <;> split <;> simp_all
  all_goals split <;> simp_all

theorem ablaze_tagsDistinct : ablaze.tagsDistinct := by
  refine ⟨by decide +kernel, fun k c h => ?_, fun k j c h d g _ => ?_⟩
  · obtain ⟨rfl, rfl⟩ := ablaze_slot h; decide
  · rw [(ablaze_slot h).1, (ablaze_slot g).1]

theorem witness_TagsAndReferencesStayDistinct : ({ ablaze with pending := [.cancel .a 258] } : State).tagsDistinct :=
  ablaze_tagsDistinct

theorem witness_UsageCountsMatchActiveCallouts : ({ ablaze with pending := [.cancel .a 258] } : State).usageExact := by
  refine ⟨by decide +kernel, fun k c h _ => ?_⟩
  obtain ⟨rfl, rfl⟩ := ablaze_slot h; decide +kernel

theorem witness_plansInRange : ablaze.plansInRange := by
  intro i
  rw [ablaze_plans]
  split
  · refine ⟨Or.inr (by decide), ?_, fun _ => by decide⟩
    intro j
    match j with
    | 0 => exact ⟨(by decide : (5 : BitVec 12) ≠ 0), by decide⟩
    | 1 => exact ⟨trivial, by decide⟩
    | 2 => exact ⟨(by decide : 1 ≤ 16 ∧ 16 ≤ 16), by decide⟩
    | 3 => exact ⟨trivial, by decide⟩
    | 4 => trivial
    | 5 => trivial
    | 6 => trivial
    | 7 => trivial
  · refine ⟨Or.inl rfl, ?_, by decide +kernel⟩
    intro j
    have : Plan.cleared.steps[j] = .finish := by revert j; decide +kernel
    rw [this]; trivial

theorem witness_TablesStayInRange : ({ ablaze with pending := [.cancel .a 258] } : State).fieldsInRange := by
  refine ⟨witness_plansInRange, by decide +kernel, fun k c h => ?_, by decide +kernel⟩
  obtain ⟨rfl, rfl⟩ := ablaze_slot h
  refine ⟨by decide, by decide, ⟨by decide, trivial⟩, ?_⟩
  intro e he
  have he : e = entry3 := by simpa [burning, fire] using he
  subst he
  exact ⟨by decide, by decide, by simp [entry3], by simp [entry3], rfl⟩

/-- The law of the queues, and a step that takes the callout to a fresh serial with its queue anew. -/
theorem witness_TablesStayInRange_queues :
    let s : State := { ablaze with pending := [.escalate .a 258 2] }
    s.queueLaw ∧ ∃ t, step s = .next t ∧ serialsFresh s t := by
  have plan : ablaze.channel.plan = [] := rfl
  refine ⟨⟨ablaze_tagsDistinct, witness_TablesStayInRange, witness_UsageCountsMatchActiveCallouts, fun k c h => ?_,
    fun k c h => ?_⟩, _, rfl, fun k c _ _ => ?_⟩
  · obtain ⟨rfl, rfl⟩ := ablaze_slot h
    exact ⟨by decide +kernel, (by decide +kernel : burning.queue.length + ablaze.inFlight 258 1 ≤ 16), trivial⟩
  · obtain ⟨rfl, rfl⟩ := ablaze_slot h
    exact (by decide +kernel :
      (some CodeRate.threeQuarters).isSome = (ablaze.plans[burning.plan].steps[burning.step]).pages)
  · change (ablaze.channel.plan).countP _ = 0
    rw [plan]; rfl

theorem ablaze_listsBounded : ablaze.listsBounded := by
  intro k c h
  obtain ⟨rfl, rfl⟩ := ablaze_slot h; decide

theorem witness_ResponderListsStayBounded : ({ ablaze with pending := [.cancel .a 258] } : State).listsBounded :=
  ablaze_listsBounded

theorem ablaze_engagementLaw : ablaze.engagementLaw := by
  refine ⟨ablaze_tagsDistinct, ablaze_listsBounded, fun h hh => (by cases hh), fun m n h => ?_, fun k c h _ e he => ?_⟩
  · rw [ablaze_engaged] at h
    split at h
    · rename_i hm
      subst hm
      have hn : (258 : Half) = n := by simpa [Engagement.callout] using h
      subst hn
      exact ⟨0, burning, by decide +kernel, rfl, Or.inl rfl, entry3, by decide, rfl, rfl⟩
    · simp [Engagement.callout] at h
  · obtain ⟨rfl, rfl⟩ := ablaze_slot h
    have he : e = entry3 := by simpa [burning, fire] using he
    subst he
    exact ⟨rfl, by rw [ablaze_engaged]; rfl⟩

theorem witness_EngagementFollowsTheLists : ({ ablaze with pending := [.cancel .a 258] } : State).engagementLaw :=
  ablaze_engagementLaw

/-- The law meets its boundary too: a site keyed at the last symbol before the end of its period, and no site keyed in the
reply section. -/
theorem witness_SitesAreKeyedOnlyWithinTheirPeriod :
    ({ onAir .onAir 300 with pending := [.readyLoss .a] } : State).keyingLaw ∧ (onAir .onAir 556).keyingLaw ∧
      (let s := onChannel ablaze .running (.cycle 18000) (airPlan .sent) none
       s.keyingLaw ∧ s.eventDue = false ∧
         ∃ t, exec (.symbolTime ⟨true, false, true⟩) s = .next t) := by
  refine ⟨⟨⟨⟨rfl, rfl, rfl, rfl, trivial⟩, by decide +kernel⟩, (by decide : (300 : Nat) ≤ 23760), by decide +kernel,
      by decide +kernel, fun _ => (by decide : (300 : Nat) ≤ periodEnd (airPlan .onAir))⟩,
    ⟨⟨⟨rfl, rfl, rfl, rfl, trivial⟩, by decide +kernel⟩, (by decide : (556 : Nat) ≤ 23760), by decide +kernel,
      by decide +kernel, fun _ => (by decide : (556 : Nat) ≤ periodEnd (airPlan .onAir))⟩,
    ⟨⟨⟨rfl, rfl, rfl, rfl, trivial⟩, by decide +kernel⟩, (by decide : (18000 : Nat) ≤ 23760), by decide +kernel,
      by decide +kernel, fun h => by cases h⟩, by decide +kernel, _, rfl⟩

theorem witness_SampleOutputStaysInRange :
    ({ onAir .onAir 300 with pending := [.readyLoss .a] } : State).sampleLaw ∧ ablaze.sampleLaw :=
  ⟨(by decide : 1 ≤ (2048#12).toNat ∧ (2048#12).toNat ≤ 4095), rfl⟩

/-! ### Witnesses clause by clause

For each obligation with hypotheses, states and operands that meet the hypotheses of each clause, at boundary values where a
clause has a range. -/

theorem witness_UndueEventsChangeNothing :
    encodeFrame (.readStatus .a) = some (.a, [49]) ∧ State.reset.listening .a = false ∧ namesRequest 1 = true ∧
      namesRequest 59 = true ∧ (idle.port .a).selLow = true ∧ idle.handOffs = [] ∧ idle.findSlot Callout.isDue = none ∧
      idle.completing = none ∧ idle.assembling = none ∧ idle.startingTone = none ∧ idle.periodEnding = false ∧
      idle.endingCell = none ∧ idle.planPointDue = false ∧ idle.channel.keyed ≠ some .a ∧ (onAir .onAir 398).eventDue = true ∧
      State.clocked { idle with sup := { idle.sup with clock := .internal } } = false ∧ idle.sup.restore = .idle ∧
      idle.sup.clock = .reference ∧ idle.sup.held = false ∧ idle.testing = false ∧ idle.pending = [] ∧
      (phased 9830399 idle).sup.tickPhase < 9830400 ∧ 9830400 ≤ (phased 9830400 idle).sup.tickPhase ∧
      (measuring 9830399 idle).sup.restore = .measuring 9830399 ∧ (measuring 9830399 idle).sup.clock = .internal ∧
      (measuring 9830400 idle).sup.restore = .measuring 9830400 ∧ (after .reset ablaze).sup.held = true ∧
      Instr.frameOpen .a ≠ .reset ∧ (measuring 0 (onAir .onAir 300)).sup.clock = .internal ∧ idle.channel.pos = .absent ∧
      idle.channel.state = .stopped ∧ (onChannel ablaze .suspended .absent [] none).channel.state = .suspended := by
  decide +kernel

theorem witness_RequestFramesReadBack :
    (Instr.raise .a 70114 2 4 3 1000).wellFormed = true ∧
      encodeFrame (.raise .a 70114 2 4 3 1000) = some (.a, [1, 0, 1, 0x11, 0xE2, 2, 4, 3, 0, 3, 0xE8]) ∧
      (Instr.unknownRequest .b 6).wellFormed = true ∧ encodeFrame (.unknownRequest .b 6) = some (.b, [6]) := by decide +kernel

theorem witness_RequestTakenAtItsLastByte :
    requestLength 1 = some 11 ∧ ([1, 0, 1, 0x11, 0xE2, 2, 4, 3, 0, 3] : List Byte).length < 11 ∧
      11 ≤ ([1, 0, 1, 0x11, 0xE2, 2, 4, 3, 0, 3, 0xE8] : List Byte).length ∧ requestLength 48 = some 1 ∧
      requestLength 6 = none ∧ (bytesOfBits (bitsOfBytes [48])).head? = some 48 ∧ 8 * 0 + 7 < (bitsOfBytes [48]).length := by
  decide +kernel

theorem witness_FramesOpenAndClose :
    State.reset.sup.held = false ∧ (State.reset.port .b).selLow = false ∧ (State.reset.port .a).frame = .closed ∧
      (idle.port .a).frame = .receiving ∧ (State.port (idle.respond .a [4]) .a).frame = .responding [4] := by decide +kernel

/-- The three checks, and a station port in fault mode with the two requests that fault mode refuses. -/
theorem witness_PortChecksComeFirst :
    testing.listening .a = true ∧ testing.testing = true ∧ requestOf (.readStatus .a) = some (.a, .any) ∧
      idle.listening .a = true ∧ idle.testing = false ∧ requestOf (.stopChannel .a) = some (.a, .stationOnly) ∧
      (idle.port .a).cls = .dispatch ∧ faulty.listening .c = true ∧ faulty.testing = false ∧ faulty.faultMode = true ∧
      (faulty.port .c).cls = .station ∧ requestOf (.startChannel .c bothReady) = some (.c, .stationUnlessFault) ∧
      requestOf (.raise .a 1 2 3 4 5) = some (.a, .anyUnlessFault) ∧ namesRequest 6 = false ∧ namesRequest 255 = false := by
  decide +kernel

theorem idle_takes (p : Port) : idle.takes p := by cases p <;> exact ⟨rfl, rfl⟩
theorem ablaze_takes (p : Port) : ablaze.takes p := by cases p <;> exact ⟨rfl, rfl⟩
theorem onAir_takes (st : ItemState) (n : Nat) (p : Port) : (onAir st n).takes p := by cases p <;> exact ⟨rfl, rfl⟩

theorem witness_ReadsAnswerWithoutEffect :
    ablaze.takes .a ∧ ablaze.lookup 258 = some (0, burning) ∧ ablaze.lookup 257 = none ∧ 96 ≤ (96 : Byte).toNat ∧
      16 ≤ (16 : Byte).toNat := ⟨ablaze_takes .a, by decide +kernel⟩

theorem witness_ResponsesHaveTheirLengths : burning.crew.seats.length ≤ 8 ∧ burning.crew.roleOrder.length ≤ 3 := by decide

/-- Port C with one notice waiting and its mark set. -/
def noticed : State := { idle with ports := { idle.ports with c := ⟨.station, .receiving, [⟨.freed, 258, 255, 2, 0, 0, 0⟩], true, true⟩ } }

theorem witness_ReadNoticeTakesTheOldest :
    testing.listening .c = true ∧ testing.testing = true ∧ noticed.listening .c = true ∧ noticed.testing = false ∧
      (noticed.port .c).queue.length = 1 ∧ (idle.port .c).queue = [] ∧
      (after (.readNotice .c) noticed).attention .c = false ∧
      ∃ u, exec (.frameClose .c) (after (.readNotice .c) noticed) = .next u :=
  ⟨by decide +kernel, by decide +kernel, by decide +kernel, by decide +kernel, by decide +kernel, by decide +kernel,
    by decide +kernel, _, rfl⟩

/-- A part with `n` notices in the queue of Port B. -/
def crowded (n : Nat) : State :=
  { idle with ports := { idle.ports with b := ⟨.dispatch, .closed, List.replicate n ⟨.raised, 1, 255, 0, 0, 1, 0⟩, false, false⟩ } }

/-- 31 notices take one more, 32 take none. -/
theorem witness_NoticesReachExactlyTheirRoute :
    PortSet.has ⟨false, true, false⟩ .a = false ∧ PortSet.has ⟨false, true, false⟩ .b = true ∧ (crowded 31).testing = false ∧
      ((crowded 31).port .b).queue.length < 32 ∧ 32 ≤ ((crowded 32).port .b).queue.length ∧ testing.testing = true ∧
      (crowded 32).sup.held = false := by decide +kernel

theorem witness_SetAvailabilityStoresAndTells :
    ablaze.takes .a ∧ 96 ≤ (96 : Byte).toNat ∧ 2 ≤ (2 : Byte).toNat ∧ (1 : Byte).toNat < 2 ∧
      (ablaze.member 95).inUse = false ∧ (ablaze.member 3).inUse = true := ⟨ablaze_takes .a, by decide +kernel⟩

theorem witness_WriteMemberReplacesTheRecord :
    ablaze.takes .a ∧ ablaze.takes .c ∧
      ((ablaze.port .a).cls = .dispatch ∧ (ablaze.port .c).cls = .station ∧ 96 ≤ (96 : Byte).toNat ∧
        (ablaze.member 3).engagement ≠ .free ∧ (ablaze.member 17).engagement = .free ∧ 1 < (2 : Byte).toNat ∧ 2 < (3 : Byte).toNat ∧
        ¬(1 ≤ (1048576 : Three).toNat ∧ (1048576 : Three).toNat ≤ 1048575) ∧ ¬(1 ≤ (0 : Three).toNat ∧ (0 : Three).toNat ≤ 1048575) ∧
        15 < (16 : Byte).toNat ∧ 1 ≤ (1048575 : Three).toNat ∧ (1048575 : Three).toNat ≤ 1048575 ∧
        (ablaze.member 3).address = some ((52357 : Three).setWidth 20) ∧ (15 : Byte) = byteOf (15 : ToneGroup).val) ∧
      (∀ k, k ≠ 17 → (ablaze.member k).address ≠ some ((1048575 : Three).setWidth 20)) :=
  ⟨ablaze_takes .a, ablaze_takes .c, by decide +kernel, by decide +kernel⟩

theorem witness_WriteTemplateClampsAndStores :
    ablaze.takes .a ∧ ablaze.takes .c ∧ (ablaze.port .a).cls = .dispatch ∧ (ablaze.port .c).cls = .station ∧
      16 ≤ (16 : Byte).toNat ∧ ablaze.plans[(2 : PlanIdx)].usage ≠ 0 ∧ ablaze.plans[(15 : PlanIdx)].usage = 0 ∧
      1 < (2 : Byte).toNat ∧ 2 < (3 : Byte).toNat ∧ 4 < (5 : Byte).toNat ∧ (4 : Byte).toNat ≤ 4 :=
  ⟨ablaze_takes .a, ablaze_takes .c, by decide +kernel⟩

theorem witness_WritePlanStepStoresItsKind :
    ablaze.takes .a ∧ ablaze.takes .c ∧ (ablaze.port .a).cls = .dispatch ∧ (ablaze.port .c).cls = .station ∧
      16 ≤ (16 : Byte).toNat ∧ 8 ≤ (8 : Byte).toNat ∧ ablaze.plans[(2 : PlanIdx)].usage ≠ 0 ∧
      ablaze.plans[(15 : PlanIdx)].usage = 0 ∧ ablaze.plans[(15 : PlanIdx)].template.written = false ∧
      planned.plans[(2 : PlanIdx)].usage = 0 ∧ planned.plans[(2 : PlanIdx)].template.written = true ∧
      4 < (5 : Byte).toNat ∧ 2 < (3 : Byte).toNat ∧ 3 < (4 : Byte).toNat ∧ (0x1000 : Half).setWidth 12 = 0#12 ∧
      15 < (16 : Byte).toNat ∧ readCondition 2 = some .ifShortOrLate ∧ (3 : Byte).toNat ≤ 3 ∧ readRate 2 = some .threeQuarters ∧
      (0x0800 : Half).setWidth 12 ≠ 0#12 ∧ (15 : Byte) = byteOf (15 : ToneGroup).val :=
  ⟨ablaze_takes .a, ablaze_takes .c, by decide +kernel⟩

theorem witness_ToneTableWritesStore :
    idle.takes .a ∧ idle.takes .c ∧ (idle.port .a).cls = .dispatch ∧ (idle.port .c).cls = .station ∧ 32 ≤ (32 : Byte).toNat ∧
      16 ≤ (16 : Byte).toNat ∧ (2999 : Half).toNat ≤ 2999 ∧ 3000 ≤ (3000 : Half).toNat ∧ (30000 : Half).toNat ≤ 30000 ∧
      30001 ≤ (30001 : Half).toNat := ⟨idle_takes .a, idle_takes .c, by decide +kernel⟩

/-- Priority 7 and location 262,143, the largest. -/
theorem witness_RaiseAllocatesANewCallout :
    planned.takes .a ∧ planned.faultMode = false ∧ (7 : Byte).toNat ≤ 7 ∧ (262143 : Three).toNat ≤ 262143 ∧ (70114 : Quad) ≠ 0 ∧
      (∀ j : SlotIdx, ∀ d ∈ planned.slots[j], d.reference ≠ 70114) ∧ planned.plans[(2 : PlanIdx)].runnable = true ∧
      planned.plans[(2 : PlanIdx)].template.inRange ∧ planned.plans[(2 : PlanIdx)].template.written = true ∧
      planned.slots[(0 : SlotIdx)] = none ∧ ∀ j : SlotIdx, j < 0 → planned.slots[j] ≠ none := by
  have hs : ∀ j : SlotIdx, planned.slots[j] = none := by decide +kernel
  refine ⟨⟨rfl, rfl⟩, rfl, by decide, by decide, by decide, fun j d h => ?_, by decide +kernel, Or.inr (by decide +kernel),
    by decide +kernel, hs 0, fun j hj => absurd hj (Fin.not_lt_zero j)⟩
  rw [hs j] at h; cases h

/-- A part with callout 258 Departed in slot 0. -/
def departed : State := withCallout (fire .departed [] [entry3]) 0 (.assigned 258)

/-- A part with all eight slots filled. -/
def fullTable : State := { ablaze with slots := Vector.replicate 8 (some burning) }

theorem witness_RaiseMergesOrIsRefused :
    ablaze.takes .b ∧ departed.takes .b ∧ fullTable.takes .b ∧ ablaze.faultMode = false ∧ departed.faultMode = false ∧
      fullTable.faultMode = false ∧ 7 < (8 : Byte).toNat ∧ 262143 < (262144 : Three).toNat ∧
      ablaze.findSlot (fun d => d.reference = 70114) = some (0, burning) ∧ burning.isActive = true ∧
      departed.findSlot (fun d => d.reference = 70114) = some (0, fire .departed [] [entry3]) ∧
      (fire .departed [] [entry3]).isActive = false ∧ ablaze.findSlot (fun d => d.reference = 0) = none ∧
      16 ≤ (16 : Byte).toNat ∧ (5 : Byte) = byteOf (5 : PlanIdx).val ∧ ablaze.plans[(5 : PlanIdx)].runnable = false ∧
      ablaze.plans[(2 : PlanIdx)].runnable = true ∧ fullTable.findSlot (fun d => d.reference = 9) = none ∧
      (∀ j : SlotIdx, fullTable.slots[j] ≠ none) ∧ fullTable.plans[(2 : PlanIdx)].runnable = true :=
  ⟨⟨rfl, rfl⟩, ⟨rfl, rfl⟩, ⟨rfl, rfl⟩, by decide +kernel⟩

theorem witness_NumbersPassOverTagsInUse :
    ablaze.serialCounter ≠ 0 ∧ ablaze.slots[(7 : SlotIdx)] = none ∧ lastNumber.serialCounter = 65535 ∧
      lastNumber.slots[(7 : SlotIdx)] = none ∧ lastNumber.newNumber = 1 ∧ nextNumber 65535 = 1 := by decide +kernel

theorem witness_StepStartFollowsThePlan :
    let steps := ablaze.plans[burning.plan].steps
    steps[(4 : StepIdx)] = .finish ∧ steps[(7 : StepIdx)] = .finish ∧
      steps[(1 : StepIdx)] = .act (.toneCall 4) .ifShort 120 0 ∧ Condition.ifShort.holds burning.crew.status = true ∧
      Condition.ifShort.holds .late = false := by decide +kernel

theorem witness_StepActionsEnqueueTheirItems : (5 : BitVec 12) ≠ 0 := by decide

/-- Both kinds of shortfall: a member taken, and one passed over when none may be taken. -/
theorem witness_ShortfallPageSelectsInOrder :
    (17 : MemberIdx) ∈ ablaze.shortfall burning 1 ∧ (17 : MemberIdx) ∉ ablaze.shortfall burning 0 := by decide +kernel

theorem witness_EscalateRestartsThePlan :
    ablaze.takes .a ∧ ablaze.lookup burning.number = some (0, burning) ∧ burning.origins.has .a = true ∧ burning.isActive = true ∧
      ablaze.plans[(2 : PlanIdx)].runnable = true ∧
      (((ablaze.evaluated burning).entries.map (·.seat)) = [.seated .officer]) ∧
      (ablaze.evaluated { burning with entries := [] }).crew.seats ≠ crew3.seats := ⟨⟨rfl, rfl⟩, by decide +kernel⟩

theorem witness_CancelStandsDownOrFrees :
    ablaze.takes .a ∧ ablaze.lookup burning.number = some (0, burning) ∧ burning.origins.has .a = true ∧ burning.isActive = true ∧
      ablaze.channel.state = .stopped ∧ (onAir .onAir 300).takes .a ∧ (onAir .onAir 300).lookup 258 = some (0, alerting) ∧
      alerting.isActive = true ∧ (onAir .onAir 300).channel.state = .running :=
  ⟨⟨rfl, rfl⟩, by decide +kernel, by decide, by decide, rfl, ⟨rfl, rfl⟩, by decide +kernel, by decide, rfl⟩

theorem witness_DepartureFreezesAndReleaseFrees :
    ablaze.takes .c ∧ ablaze.lookup 258 = some (0, burning) ∧ (ablaze.port .c).cls = .station ∧ burning.isActive = true ∧
      departed.takes .a ∧ departed.lookup 258 = some (0, fire .departed [] [entry3]) ∧
      (fire .departed [] [entry3]).origins.has .a = true ∧ (fire .departed [] [entry3]).lifecycle = .departed :=
  ⟨⟨rfl, rfl⟩, by decide +kernel, rfl, by decide, ⟨rfl, rfl⟩, by decide +kernel⟩

theorem witness_LifecycleRequestsAreRefusedInOrder :
    ablaze.takes .b ∧ ablaze.takes .c ∧ ablaze.lookup 257 = none ∧ (ablaze.port .c).cls = .station ∧
      ablaze.lookup 258 = some (0, burning) ∧ (ablaze.port .b).cls = .dispatch ∧ burning.origins.has .b = false ∧
      burning.lifecycle ≠ .departed ∧ burning.isActive = true ∧ 16 ≤ (16 : Byte).toNat ∧
      (5 : Byte) = byteOf (5 : PlanIdx).val ∧ ablaze.plans[(5 : PlanIdx)].runnable = false ∧ departed.takes .c ∧
      departed.lookup 258 = some (0, fire .departed [] [entry3]) ∧ (fire .departed [] [entry3]).isActive = false :=
  ⟨⟨rfl, rfl⟩, ⟨rfl, rfl⟩, by decide +kernel, rfl, by decide +kernel, rfl, by decide, by decide, by decide, by decide, by decide,
    by decide +kernel, ⟨rfl, rfl⟩, by decide +kernel⟩

theorem witness_TickAdvancesElapsedTimes :
    let s := phased 9830400 ablaze
    s.sup.held = false ∧ 9830400 ≤ s.sup.tickPhase ∧ s.slots[(1 : SlotIdx)] = none ∧ s.slots[(0 : SlotIdx)] = some burning := by
  decide +kernel

/-- The callout whose hold has run out, with one repeat left. -/
def held : Callout := fire (running (.holding 100 true)) [] [entry3]

/-- The same with no repeat left. -/
def heldLast : Callout := fire (.active ⟨.holding 100 true, 0, some .half⟩) [] [entry3]

theorem witness_HoldExpiryRepeatsOrMovesOn :
    let s := withCallout held 1 (.assigned 258)
    let s' := withCallout heldLast 1 (.assigned 258)
    s.sup.held = false ∧ s.slots[(0 : SlotIdx)] = some held ∧ held.lifecycle = .active ⟨.holding 100 true, 1, some .threeQuarters⟩ ∧
      s.plans[held.plan].steps[held.step] = .act (.groupPage 5 .threeQuarters) .always 60 1 ∧
      Condition.always.holds held.crew.status = true ∧ s'.slots[(0 : SlotIdx)] = some heldLast ∧
      heldLast.lifecycle = .active ⟨.holding 100 true, 0, some .half⟩ := by decide +kernel

/-- Callout 258 with member 3 marked Arrived. -/
def arrivedFire : Callout := fire (running .queued) [] [{ entry3 with answer := .arrived, eta := none, estimate := some 40 }]

/-- The part with a hand-off waiting. -/
def handing (s : State) (h : HandOff) : State := { s with handOffs := [h] }

theorem witness_RepliesAreTakenFromEverySource :
    ablaze.takesStation .c ∧ 96 ≤ (96 : Byte).toNat ∧ 2 ≤ (2 : Byte).toNat ∧ (1 : Byte).toNat < 2 ∧
      (ablaze.member 95).inUse = false ∧ ablaze.lookup 257 = none ∧ (ablaze.member 17).inUse = true ∧
      ablaze.lookup 258 = some (0, burning) ∧ burning.isActive = true ∧ (∀ e ∈ burning.entries, ¬(e.member = 17 ∧ e.answer = .arrived)) ∧
      (departed.takesStation .c ∧ departed.lookup 258 = some (0, fire .departed [] [entry3]) ∧
        (fire .departed [] [entry3]).isActive = false ∧ (departed.member 3).inUse = true) ∧
      ((withCallout arrivedFire 1 (.assigned 258)).takesStation .c ∧
        (withCallout arrivedFire 1 (.assigned 258)).lookup 258 = some (0, arrivedFire) ∧ arrivedFire.isActive = true ∧
        ∃ e ∈ arrivedFire.entries, e.member = 3 ∧ e.answer = .arrived) ∧
      (handing ablaze ⟨17, .declined, none, 258⟩).sup.held = false ∧
      (handing ablaze ⟨17, .declined, none, 257⟩).lookup 257 = none ∧
      (17 : MemberIdx) ∈ burning.pagedMembers ∧
      ((ablaze.member 60).pager = .tone 4 ∧ (60 : MemberIdx) ∉ burning.pagedMembers) :=
  ⟨⟨⟨rfl, rfl⟩, rfl⟩, by decide, by decide, by decide, by decide +kernel, by decide +kernel, by decide +kernel, by decide +kernel,
    by decide, by decide, ⟨⟨⟨rfl, rfl⟩, rfl⟩, by decide +kernel⟩, ⟨⟨⟨rfl, rfl⟩, rfl⟩, by decide +kernel⟩, by decide +kernel,
    by decide +kernel, by decide, by decide +kernel⟩

/-- Lists of 24 entries of members 20 to 43, the first of them Declined or none. -/
def fullList (first : Answer) : List Entry :=
  (List.range 24).map fun i =>
    ⟨Fin.ofNat 96 (20 + i), if i = 0 then first else .attending, none, .radio, 1, 1, if i = 0 ∧ first = .declined then none else some 5,
      false, .unseated⟩

/-- Callout 300 of priority 5 or 4, in slot 1, with a list that holds nobody: empty, or of 24 Declined entries. -/
def second (high full : Bool) : Callout :=
  { fire (running .queued) [] (if full then (fullList .declined).map fun e => { e with answer := .declined, estimate := none } else [])
    with number := 300, reference := 5, priority := if high then 5 else 4 }

/-- The part with both callouts: 258 of priority 4 holds member 3. -/
def twoFires (high full : Bool) : State := { ablaze with slots := ablaze.slots.set 1 (some (second high full)) }

theorem twoFires_law (high full : Bool) : (twoFires high full).engagementLaw := by
  have e : ∀ k : SlotIdx,
      (twoFires high full).slots[k] = if k = 0 then some burning else if k = 1 then some (second high full) else none := by
    revert high full; decide +kernel
  have hs : ∀ {k : SlotIdx} {c : Callout}, c ∈ (twoFires high full).slots[k] → k = 0 ∧ c = burning ∨ k = 1 ∧ c = second high full := by
    intro k c h
    rw [e] at h
    split at h
    · exact Or.inl ⟨by assumption, by simpa using h.symm⟩
    · split at h
      · exact Or.inr ⟨by assumption, by simpa using h.symm⟩
      · cases h
  have bounded : (second high full).entries.length ≤ 24 ∧ ((second high full).entries.map (·.member)).Nodup := by
    revert high full; decide +kernel
  have nobody : ∀ e ∈ (second high full).entries, e.seat = .unseated ∧ e.isCandidate = false := by
    revert high full; decide +kernel
  refine ⟨⟨(by decide : (259 : Half) ≠ 0), fun k c h => ?_, fun k j c h d g hcd => ?_⟩, fun k c h => ?_,
    fun h hh => (by cases hh), fun m x h => ?_, fun k c h _ e he => ?_⟩
  · rcases hs h with ⟨-, rfl⟩ | ⟨-, rfl⟩
    · exact (by decide : (258 : Half) ≠ 0 ∧ (70114 : Quad) ≠ 0)
    · exact (by decide : (300 : Half) ≠ 0 ∧ (5 : Quad) ≠ 0)
  · rcases hs h with ⟨rfl, rfl⟩ | ⟨rfl, rfl⟩ <;> rcases hs g with ⟨rfl, rfl⟩ | ⟨rfl, rfl⟩
    · rfl
    · exact absurd hcd (by decide : ¬(tagOf 258 = tagOf 300 ∨ (70114 : Quad) = 5))
    · exact absurd hcd (by decide : ¬(tagOf 300 = tagOf 258 ∨ (5 : Quad) = 70114))
    · rfl
  · rcases hs h with ⟨-, rfl⟩ | ⟨-, rfl⟩
    · decide
    · exact bounded
  · change (ablaze.member m).engagement.callout = some x at h
    obtain ⟨k, c, hc, hn, ha, e, he, hm, hcand⟩ := ablaze_engagementLaw.2.2.2.1 m x h
    obtain ⟨rfl, rfl⟩ := ablaze_slot hc
    exact ⟨0, burning, rfl, hn, ha, e, he, hm, hcand⟩
  · rcases hs h with ⟨-, rfl⟩ | ⟨-, rfl⟩
    · exact ablaze_engagementLaw.2.2.2.2 0 burning rfl rfl e he
    · rw [(nobody e he).1]; exact (nobody e he).2

/-- A reply of a free member, of one that another callout holds with a lower and with no lower priority, of one that the callout
itself holds, and a Declined one; an entry to update, a list with room and a full list with a Declined entry at its head; and a
Station port with room for four notices. -/
theorem witness_ReplyIsRecordedByTheEngagementRule :
    (∀ high full, (twoFires high full).engagementLaw ∧ (twoFires high full).slots[(1 : SlotIdx)] = some (second high full)) ∧
      (second true false).isActive = true ∧ (second true false).entries.length < 24 ∧ (second true true).entries.length = 24 ∧
      ((second true true).entries.head?.map (·.answer)) = some .declined ∧ (∀ e ∈ (second true true).entries, e.member ≠ 3) ∧
      ((twoFires true true).member 17).engagement.callout = none ∧
      ((twoFires true true).member 3).engagement.callout = some burning.number ∧ burning.number ≠ (second true true).number ∧
      burning.isActive = true ∧ burning.priority.toNat < (second true true).priority.toNat ∧
      (second false true).priority.toNat ≤ burning.priority.toNat ∧ (twoFires true true).slots[(0 : SlotIdx)] = some burning ∧
      (∃ e ∈ burning.entries, e.member = 3) ∧ ((twoFires true true).port .c).cls = .station ∧
      (twoFires true true).testing = false ∧ ((twoFires true true).port .c).queue.length ≤ 28 ∧
      ((twoFires true true).port .a).cls = .dispatch ∧ burning.origins.has .a = true ∧
      ((twoFires true true).port .a).queue.length ≤ 28 :=
  ⟨fun high full => ⟨twoFires_law high full, by revert high full; decide +kernel⟩, by decide +kernel⟩

theorem witness_FullListEvictsTheOldestDeclined :
    (∃ e ∈ fullList .declined, e.member = 20) ∧ (∀ e ∈ fullList .declined, e.member ≠ 17) ∧
      ((fullList .declined).take 23).length < 24 ∧ (fullList .declined).length = 24 ∧
      (∃ e ∈ fullList .declined, e.answer = .declined) ∧ (∀ e ∈ fullList .attending, e.answer ≠ .declined) ∧
      (fullList .attending).length = 24 ∧ (∀ e ∈ fullList .attending, e.member ≠ 17) ∧
      (ablaze.weigh (fire (running .queued) [] (fullList .attending)) ⟨17, .attending, none, .radio⟩).answer
        ⟨17, .attending, none, .radio⟩ ≠ .declined ∧
      (ablaze.weigh (fire (running .queued) [] (fullList .attending)) ⟨17, .declined, none, .radio⟩).answer
        ⟨17, .declined, none, .radio⟩ = .declined := by decide +kernel

/-- The candidates of the worked case of a structure-fire crew. -/
def fireCrew : List Candidate :=
  [⟨44, 150, ⟨false, false, false⟩⟩, ⟨3, 340, ⟨true, true, false⟩⟩, ⟨17, 295, ⟨false, true, false⟩⟩,
    ⟨21, 420, ⟨false, true, true⟩⟩, ⟨30, 270, ⟨false, false, true⟩⟩, ⟨52, 580, ⟨true, false, true⟩⟩]

theorem fireTemplate_inRange : Template.inRange ⟨1, 1, 2, 5, 420⟩ := Or.inr (by decide)

theorem witness_CrewSeatsAreQualifiedAndDistinct :
    Template.inRange ⟨1, 1, 2, 5, 420⟩ ∧ Template.written ⟨1, 1, 2, 5, 420⟩ = true ∧ (fireCrew.map (·.member)).Nodup :=
  ⟨fireTemplate_inRange, by decide⟩

/-- A complete crew and one that is Short. -/
theorem witness_CrewStatusFollowsTheEstimates :
    (∀ c ∈ fireCrew, c.estimate ≤ 4095) ∧ (assemble ⟨1, 1, 2, 5, 420⟩ fireCrew).ready = some 420 ∧
      (assemble ⟨1, 1, 2, 5, 420⟩ []).ready = none := by decide +kernel

theorem witness_CrewIgnoresTheOrderOfTheList : fireCrew.Perm fireCrew.reverse ∧ (fireCrew.map (·.member)).Nodup :=
  ⟨(List.reverse_perm _).symm, by decide⟩

/-- A missing role with a holder seated, and a missing Crew seat. -/
theorem witness_RolesAreFilledWhileHoldersRemain :
    0 < (assemble ⟨0, 1, 2, 3, 360⟩ [⟨8, 100, ⟨false, true, true⟩⟩]).missing.driver ∧
      0 < (assemble ⟨0, 1, 0, 2, 900⟩ [⟨17, 5, ⟨false, true, false⟩⟩]).missing.crew := by decide +kernel

/-- The part in each channel state, and in fallback. -/
theorem witness_ChannelRequestsTakeEffect :
    idle.takesStation .c ∧ (onAir .onAir 300).takesStation .c ∧ (onChannel ablaze .suspended .absent [] none).takesStation .c ∧
      idle.channel.state = .stopped ∧ (onAir .onAir 300).channel.state = .running ∧
      (onChannel ablaze .suspended .absent [] none).channel.state = .suspended ∧ 7 < (8 : Byte).toNat ∧ 1 < (2 : Byte).toNat ∧
      (7 : Byte).toNat ≤ 7 ∧ (1 : Byte).toNat ≤ 1 ∧ 2 ≤ (2 : Byte).toNat ∧ Site.a = idle.channel.selected ∧
      Site.b ≠ idle.channel.selected ∧ idle.faultMode = false ∧ idle.sup.clock = .reference ∧
      State.takesStation { idle with sup := { idle.sup with clock := .internal } } .c :=
  ⟨⟨⟨rfl, rfl⟩, rfl⟩, ⟨⟨rfl, rfl⟩, rfl⟩, ⟨⟨rfl, rfl⟩, rfl⟩, rfl, rfl, rfl, by decide, by decide, by decide, by decide, by decide, rfl,
    by decide, rfl, rfl, ⟨⟨rfl, rfl⟩, rfl⟩⟩

theorem witness_PlanPointOpensTheNextCycle :
    let s := onChannel ablaze .running (.cycle 23760) [] none
    let s' := onChannel ablaze .stopping (.cycle 23760) [] none
    s.clocked = true ∧ s.planPointDue = true ∧ s.channel.state = .running ∧ s'.clocked = true ∧ s'.planPointDue = true ∧
      s'.channel.state = .stopping ∧ (after (.planPoint bothReady) s).channel.keyed = some .a ∧
      (after (.planPoint ⟨false, false, false⟩) s).channel.keyed = none := by decide +kernel

theorem witness_KeyingDecisionFollowsTheReadyInputs :
    ablaze.channel.selected = .a ∧ Site.b ≠ .a ∧ bothReady.rdyA = true ∧ ablaze.channel.mode = .request ∧
      State.channel { ablaze with channel := { ablaze.channel with mode := .pin } } = { ablaze.channel with mode := .pin } := by
  decide +kernel

theorem witness_CyclePlanTakesQueuesInPriorityOrder :
    ablaze.waiting = [(0, burning)] ∧
      (takeTurn 157 false burning.queue).2 = burning.queue ∧ (takeTurn 158 false burning.queue).1.length = 1 := by decide +kernel

/-- A callout Standing down with `n` Stand-downs sent, and its item on the air. -/
def standingDown (n : Nat) : State :=
  onChannel (withCallout (fire (.standingDown n) [] [entry3]) 0 .free) .running (.cycle 464)
    [⟨⟨.standDown, 258, 1⟩, 240, 224, .onAir⟩] (some .a)

/-- A Closing of an Active callout's number and serial at its end. -/
def strayClosing : State :=
  onChannel (withCallout alerting 1 (.assigned 258)) .running (.cycle 464) [⟨⟨.closing, 258, 1⟩, 240, 224, .onAir⟩] (some .a)

/-- The callout moved on to serial 2 while an alert of serial 1 is on the air. -/
def movedOn : State :=
  onChannel (withCallout { alerting with serial := 2 } 1 (.assigned 258)) .running (.cycle 398) (airPlan .onAir) (some .a)

/-- The second alert the last, at its end. -/
def lastAlert (queue : List TxItem) : State :=
  onChannel (withCallout (fire (running .alerting) queue [entry3]) 1 (.assigned 258)) .running (.cycle 398)
    [⟨⟨.groupAlert 0 .threeQuarters, 258, 1⟩, 240, 158, .onAir⟩] (some .a)

/-- The plan of the callout on the air fits, whatever its state and position. -/
theorem onAir_cyclePlanFits (st : ItemState) (n : Nat) : (onAir st n).cyclePlanFits :=
  ⟨⟨rfl, rfl, rfl, rfl, trivial⟩, (by decide : 158 + (158 + 0) ≤ 17760)⟩

/-- The plans with which the events of the cycle are found: two alerts, a tone call, and none. -/
theorem witness_CyclePlanFits :
    (onAir .onAir 398).cyclePlanFits ∧ (onAir .pending 239).cyclePlanFits ∧
      (onChannel ablaze .running (.cycle 240) [⟨⟨.toneCall 4, 258, 1⟩, 240, 9600, .pending⟩] (some .a)).cyclePlanFits ∧
      (onChannel ablaze .running (.cycle 240) [] (some .a)).cyclePlanFits :=
  ⟨onAir_cyclePlanFits _ _, onAir_cyclePlanFits _ _, ⟨⟨rfl, rfl, trivial⟩, by decide +kernel⟩, trivial, by decide +kernel⟩

theorem witness_CompletionsMatchByNumberAndSerial :
    (onAir .onAir 398).clocked = true ∧
      (onAir .onAir 398).completing = some ⟨⟨.groupAlert 0 .threeQuarters, 258, 1⟩, 240, 158, .onAir⟩ ∧
      (onAir .onAir 398).lookup 258 = some (0, alerting) ∧ alerting.serial = 1 ∧
      (lastAlert []).completing = some ⟨⟨.groupAlert 0 .threeQuarters, 258, 1⟩, 240, 158, .onAir⟩ ∧
      (lastAlert [⟨.toneCall 4, 258, 1⟩]).completing = some ⟨⟨.groupAlert 0 .threeQuarters, 258, 1⟩, 240, 158, .onAir⟩ ∧
      (standingDown 0).completing = some ⟨⟨.standDown, 258, 1⟩, 240, 224, .onAir⟩ ∧
      (standingDown 1).completing = some ⟨⟨.standDown, 258, 1⟩, 240, 224, .onAir⟩ ∧
      (standingDown 1).lookup 258 = some (0, fire (.standingDown 1) [] [entry3]) ∧
      (onChannel idle .running (.cycle 398) (airPlan .onAir) (some .a)).lookup 258 = none ∧
      (onChannel departed .running (.cycle 398) (airPlan .onAir) (some .a)).lookup 258 = some (0, fire .departed [] [entry3]) ∧
      strayClosing.completing = some ⟨⟨.closing, 258, 1⟩, 240, 224, .onAir⟩ ∧
      strayClosing.lookup 258 = some (0, alerting) ∧
      movedOn.completing = some ⟨⟨.groupAlert 0 .threeQuarters, 258, 1⟩, 240, 158, .onAir⟩ ∧
      movedOn.lookup 258 = some (0, { alerting with serial := 2 }) := by
  decide +kernel

theorem onAir_tagsDistinct : (onAir .onAir 300).tagsDistinct := by
  have e : ∀ k : SlotIdx, (onAir .onAir 300).slots[k] = if k = 0 then some alerting else none := by decide +kernel
  have hs : ∀ {k : SlotIdx} {c : Callout}, c ∈ (onAir .onAir 300).slots[k] → k = 0 ∧ c = alerting := by
    intro k c h
    rw [e] at h
    split at h <;> simp_all
  refine ⟨by decide, fun k c h => ?_, fun k j c h d g _ => ?_⟩
  · obtain ⟨rfl, rfl⟩ := hs h; decide
  · rw [(hs h).1, (hs g).1]

theorem witness_ReadyLossReturnsItemsInPlanOrder :
    (onAir .sent 556).clocked = true ∧ (onAir .sent 556).periodEnding = true ∧ (onAir .onAir 300).tagsDistinct ∧
      (onAir .onAir 300).sup.held = false ∧ (onAir .onAir 300).channel.keyed = some .a ∧
      (onAir .onAir 300).slots[(0 : SlotIdx)] = some alerting ∧ (onAir .onAir 300).slots[(1 : SlotIdx)] = none ∧
      (onAir .onAir 300).periodEnding = false ∧ (∃ e ∈ (onAir .onAir 398).channel.plan, e.state = .onAir) ∧
      (let spent := onChannel ablaze .running (.cycle 398) [⟨⟨.groupAlert 0 .threeQuarters, 258, 1⟩, 240, 158, .sent⟩] (some .a)
       spent.periodEnding = true ∧ spent.channel.keyed = some .a ∧
         ∀ e ∈ spent.channel.plan, e.state ≠ .pending ∧ e.state ≠ .onAir) ∧
      (let beaconOnly := onChannel ablaze .running (.cycle 240) [] (some .a)
       beaconOnly.periodEnding = true ∧ beaconOnly.tagsDistinct) :=
  ⟨by decide +kernel, by decide +kernel, onAir_tagsDistinct, by decide +kernel, by decide +kernel, by decide +kernel,
    by decide +kernel, by decide +kernel, by decide +kernel, by decide +kernel, by decide +kernel, ablaze_tagsDistinct⟩

/-- The plans of witness_SymbolAndSampleTimesPass fit: alerts from 240 on, and a tone call. -/
theorem witness_SymbolAndSampleTimesPass_fits :
    (onAir .pending 240).cyclePlanFits ∧ (onAir .onAir 396).cyclePlanFits ∧
      (onChannel ablaze .running (.cycle 300) [⟨⟨.toneCall 4, 258, 1⟩, 240, 9600, .onAir⟩] (some .a)).cyclePlanFits :=
  ⟨onAir_cyclePlanFits _ _, onAir_cyclePlanFits _ _, ⟨rfl, rfl, trivial⟩, by decide +kernel⟩

theorem witness_FramesAndTonesArePrepared :
    (onAir .pending 239).clocked = true ∧
      (onAir .pending 239).assembling = some ⟨⟨.groupAlert 0 .threeQuarters, 258, 1⟩, 240, 158, .pending⟩ ∧
      (onChannel ablaze .running (.cycle 240) [⟨⟨.toneCall 4, 258, 1⟩, 240, 9600, .pending⟩] (some .a)).startingTone =
        some ⟨⟨.toneCall 4, 258, 1⟩, 240, 9600, .pending⟩ ∧
      ablaze.lookup 257 = none ∧ ablaze.lookup 258 = some (0, burning) ∧ (ablaze.member 3).address = some 52357 ∧
      (ablaze.member 60).address = none := by decide +kernel

theorem witness_FramesOccupyTheirCost :
    (ItemKind.groupAlert 0 .half).isFrame = true ∧ (List.replicate 80 false).length = 80 := by decide

theorem witness_EncoderFollowsItsFormulas : 7 < [true, false, true, true, false, false, false, false].length := by decide

/-- Positions in G, B, its fill, O at a frame's start, O in a tone call, and the reply section; a keyed and an unkeyed sample, a
silent one and the first after a restore. -/
theorem witness_SymbolAndSampleTimesPass :
    let tone := onChannel ablaze .running (.cycle 300) [⟨⟨.toneCall 4, 258, 1⟩, 240, 9600, .onAir⟩] (some .a)
    let silent := { onAir .onAir 300 with tx := { ablaze.tx with tone := some ⟨240, 0, 0⟩ } }
    let ready := { onAir .pending 240 with tx := { ablaze.tx with assembled := some [] } }
    (onChannel idle .running (.lead true 239) [] (some .a)).eventDue = false ∧ idle.clocked = true ∧
      (onAir .pending 223).eventDue = false ∧ (onAir .pending 224).eventDue = false ∧ ready.eventDue = false ∧
      (⟨⟨.groupAlert 0 .threeQuarters, 258, 1⟩, 240, 158, .pending⟩ : PlannedItem) ∈ ready.channel.plan ∧
      (onAir .onAir 396).eventDue = false ∧
      (⟨⟨.groupAlert 0 .threeQuarters, 258, 1⟩, 240, 158, .onAir⟩ : PlannedItem) ∈ (onAir .onAir 396).channel.plan ∧
      State.eventDue { tone with tx := { tone.tx with tone := some ⟨240, 7874, 20480⟩ } } = false ∧
      (⟨⟨.toneCall 4, 258, 1⟩, 240, 9600, .onAir⟩ : PlannedItem) ∈ tone.channel.plan ∧
      (onChannel idle .running (.cycle 17999) [] none).eventDue = false ∧
      (onChannel idle .running (.cycle 18000) [] none).eventDue = false ∧ (onAir .onAir 300).channel.state.cycling = true ∧
      silent.tx.tone ≠ none ∧ silent.tx.increment = 0 ∧ silent.tx.restoreWord = false ∧ silent.channel.keyed ≠ none ∧
      idle.channel.keyed = none ∧ State.clocked { idle with tx := { idle.tx with restoreWord := true } } = true ∧
      (let restored := { onAir .onAir 300 with tx := { ablaze.tx with restoreWord := true } }
       restored.clocked = true ∧ restored.channel.keyed ≠ none ∧ restored.tx.restoreWord = true) ∧
      State.reset.tx.dacWord = none := by
  decide +kernel

theorem witness_BurstDecodesToTheNearestWord : burst.length = 56 := by decide

theorem witness_CodewordsDifferInSevenPlaces : (0 : BitVec 24) ≠ 1 := by decide

/-- An accepted cell, a rejected one, an empty one and cell 95. -/
theorem witness_CellEndDecidesTheCell :
    cellHeard.tagsDistinct ∧ cellHeard.clocked = true ∧ cellHeard.endingCell = some 3 ∧
      cellHeard.decideCell 3 = .accepted burstWord ∧ cellHeard.decideCell 4 = .rejected ∧ idle.decideCell 3 = .empty ∧
      (onChannel { ablaze with rx := burstReceived } .running (.cycle 23760) [] none).endingCell = some 95 :=
  ⟨ablaze_tagsDistinct, by decide +kernel⟩

/-- A status reply, with a callout reply of an earlier cell on its way and with none. -/
theorem witness_CellEndDecidesTheCell_status :
    statusHeard.tagsDistinct ∧ statusHeard.clocked = true ∧ statusHeard.endingCell = some 3 ∧
      statusHeard.decideCell 3 = .accepted 0b110000000000000001010001#24 ∧ statusHeard.handOffs = [] ∧
      (let s := handing statusHeard ⟨17, .declined, none, 258⟩
       s.tagsDistinct ∧ s.clocked = true ∧ s.endingCell = some 3 ∧ s.handOffs ≠ [] ∧
         s.decideCell 3 = .accepted 0b110000000000000001010001#24) :=
  ⟨ablaze_tagsDistinct, by decide +kernel, by decide +kernel, by decide +kernel, by decide +kernel, ablaze_tagsDistinct,
    by decide +kernel⟩

theorem witness_ResetClearsAndTheSelfTestEnds :
    (after .reset ablaze).sup.held = true ∧ (after .reset ablaze).inputs.clsA = false ∧ testing.sup.held = false ∧ testing.testing = true := by decide +kernel

/-- A loss in each channel state, a gap and a restore. -/
theorem witness_ClockLossAndRestoreMoveTheChannel :
    ablaze.sup.held = false ∧ ablaze.sup.clock = .reference ∧ ablaze.channel.state = .stopped ∧
      (onAir .onAir 300).channel.state = .running ∧
      (onChannel (onAir .onAir 300) .stopping (.cycle 300) (airPlan .onAir) (some .a)).channel.state = .stopping ∧
      (after .referenceLost (onAir .onAir 300)).sup.restore = .measuring 0 ∧
      (after .referenceLost (onAir .onAir 300)).sup.clock = .internal ∧
      (after .referenceLost (onAir .onAir 300)).channel.state = .suspended ∧
      (after .referenceLost ablaze).channel.state ≠ .suspended ∧
      (measuring 9830400 (onChannel ablaze .suspended .absent [] none)).sup.restore = .measuring 9830400 ∧
      (measuring 9830400 ablaze).channel.state ≠ .suspended ∧ (measuring 9830400 ablaze).sup.clock = .internal ∧
      (standingDown 1).sup.held = false := by decide +kernel

end Sys2Proof.Tests
end

section
/-! PROOF. What a command can do to the tables, said once for all 47: the roster, the plans, the callouts, the replies on their way
and the cycle plan move by the named operations of the model alone. Every law over the tables is then kept by a case for each
operation. -/

namespace Sys2Proof.Machine

open Sys2Proof

/-! ### The tables -/

/-- Two states hold the same tables: what else they hold (ports, clocks, transmit path, receiver, the channel's registers) is left
open. -/
structure State.sameTables (s t : State) : Prop where
  roster : t.roster = s.roster
  plans : t.plans = s.plans
  slots : t.slots = s.slots
  handOffs : t.handOffs = s.handOffs
  cyclePlan : t.channel.plan = s.channel.plan

theorem State.sameTables_refl (s : State) : s.sameTables s := ⟨rfl, rfl, rfl, rfl, rfl⟩

theorem State.sameTables_trans {s t u : State} (h : s.sameTables t) (g : t.sameTables u) : s.sameTables u :=
  ⟨g.roster.trans h.roster, g.plans.trans h.plans, g.slots.trans h.slots, g.handOffs.trans h.handOffs,
    g.cyclePlan.trans h.cyclePlan⟩

/-- A frame equation, which says that a state with some fields of `t` put back is `s`, carries its tables over. -/
theorem State.sameTables_of_frame {s t u : State} (frame : u = s) (h : u.sameTables t) : s.sameTables t := frame ▸ h

/-- Notices touch no table. -/
theorem State.noticed.sameTables {s t : State} (h : s.noticed t) : s.sameTables t :=
  State.sameTables_of_frame h.1 ⟨rfl, rfl, rfl, rfl, rfl⟩

theorem State.sameTables_raiseNotice (s : State) (route : PortSet) (n : Notice) : s.sameTables (s.raiseNotice route n) :=
  (s.noticed_raiseNotice route n).sameTables

/-- A selection of the site touches no table (R119). -/
theorem State.sameTables_select (s : State) (site : Site) (why : SiteChangeCause) : s.sameTables (s.select site why) :=
  State.sameTables_trans (t := { s with channel := { s.channel with selected := site } }) ⟨rfl, rfl, rfl, rfl, rfl⟩
    (s.select_effect site why).sameTables

/-- The sample of the SITE input touches no table (R120). -/
theorem State.sameTables_sampleSite (s : State) (pins : SitePins) : s.sameTables (s.sampleSite pins) := by
  unfold State.sampleSite
  split
  · exact s.sameTables_refl
  · exact State.sameTables_trans (t := { s with inputs := { s.inputs with site := pins.site } }) ⟨rfl, rfl, rfl, rfl, rfl⟩
      (State.sameTables_select _ _ _)

/-- A change of channel state touches no table (R110). -/
theorem State.sameTables_changeChannel (s : State) (new : ChannelState) (why : ChannelCause) :
    s.sameTables (s.changeChannel new why) :=
  State.sameTables_trans (t := { s with channel := { s.channel with state := new } }) ⟨rfl, rfl, rfl, rfl, rfl⟩
    (s.changeChannel_effect new why).sameTables

/-! ### The operations of the tables -/

/-- The operations by which a command moves the tables, but for those that give a callout a new serial, the plan writes and the
plan point. Each comes with what the command has tested before. `short` stands for what is known of the replies that were on their
way before the command: that their ETAs are at most 30 minutes. -/
inductive State.TableOp (short : Prop) (s : State) : State → Prop
  | quiet {t : State} (same : s.sameTables t) : TableOp short s t
  | tellMember (m : MemberIdx) (x : Member) (address : x.address = (s.member m).address)
      (eta : x.defaultEta = (s.member m).defaultEta) : TableOp short s (s.setMember m x)
  | writeMember (m : MemberIdx) (x : Member)
      (free : ∀ a, x.address = some a → a ≠ 0 ∧ ∀ k, k ≠ m → (s.member k).address ≠ some a)
      (eta : x.defaultEta ≤ 30) : TableOp short s (s.setMember m x)
  | merge (p : Port) (k : SlotIdx) (c : Callout) (priority : BitVec 3) (held : s.slots[k] = some c) :
      TableOp short s (s.merge p k c priority)
  | release (k : SlotIdx) (c : Callout) : TableOp short s (s.releaseCallout k c)
  | record (k : SlotIdx) (c : Callout) (r : Reply) (a : Answer) (mark : Bool) (room : Room) (held : s.slots[k] = some c)
      (eta : short → ∀ n ∈ r.eta, n ≤ 30) : TableOp short s (s.record k c r a mark room)
  | withdraw (k : SlotIdx) (d : Callout) (r : Reply) (held : s.slots[k] = some d) : TableOp short s (s.withdraw k d r)
  | dropHandOff (h : HandOff) (rest : List HandOff) (waiting : s.handOffs = h :: rest) :
      TableOp short s { s with handOffs := rest }
  | handOn (m : MemberIdx) (a : Answer) (eta : Option Nat) (tag : BitVec 6) (limited : ∀ n ∈ eta, n ≤ 30) :
      TableOp short s (s.handOn m a eta tag)
  | tick : TableOp short s { s with slots := s.slots.map (Option.map Callout.ticked) }
  | returnUnsent : TableOp short s s.returnUnsent
  | stopSlots : TableOp short s s.stopSlots
  | complete (e : PlannedItem) (due : s.completing = some e) : TableOp short s (s.complete e)
  | send (e : PlannedItem) (unsent : e.unsent = true) : TableOp short s (s.markItem e .onAir)
  | clear {t : State} (roster : ∀ m, t.member m = .cleared) (plans : ∀ i : PlanIdx, t.plans[i] = .cleared)
      (slots : ∀ k : SlotIdx, t.slots[k] = none) (handOffs : t.handOffs = s.handOffs ∨ t.handOffs = []) : TableOp short s t

/-- The operations that give a callout a new serial, or a slot a new callout. -/
inductive State.SerialOp (s : State) : State → Prop
  | allocate (p : Port) (reference : Quad) (i : PlanIdx) (priority : BitVec 3) (cls : Byte) (location : BitVec 18) (k : SlotIdx)
      (free : s.slots[k] = none) : SerialOp s (s.allocate p k (s.newCallout p reference i priority cls location))
  | escalate (k : SlotIdx) (c : Callout) (i : PlanIdx) (held : s.slots[k] = some c) (active : c.isActive = true) :
      SerialOp s (s.escalateTo k c i)
  | cancel (k : SlotIdx) (c : Callout) (held : s.slots[k] = some c) : SerialOp s (s.cancelCallout k c)
  | depart (k : SlotIdx) (c : Callout) (held : s.slots[k] = some c) : SerialOp s (s.depart k c)
  | expire (k : SlotIdx) (c : Callout) (repeats deadline : Nat) (rate : Option CodeRate) (due : Bool)
      (held : s.slots[k] = some c) (run : c.lifecycle = .active ⟨.holding deadline due, repeats, rate⟩) :
      SerialOp s (s.expireHold k c ⟨.holding deadline due, repeats, rate⟩)

/-- What a plan write stores (R23, R27, R28): a step in range, with a written template before a step 0 that acts, or a written
template in range. -/
inductive Plan.Written (x : Plan) : Plan → Prop
  | step (j : StepIdx) (y : PlanStep) (inRange : y.inRange) (first : j = 0 → y ≠ .finish → x.template.written = true) :
      Written x { x with steps := x.steps.set j y }
  | template (y : Template) (inRange : y.inRange) (written : y.written = true) : Written x { x with template := y }

/-- The operations one after another. -/
abbrev State.TableOps (short : Prop) : State → State → Prop := Relation.ReflTransGen (State.TableOp short)

/-- What a command can do to the tables: operations one after another; the writing of a plan that no callout runs; a plan point and
the returns after it; or one operation that gives a callout a new serial. -/
inductive State.Moved (short : Prop) (s t : State) : Prop
  | kept (ops : s.TableOps short t)
  | planWritten (i : PlanIdx) (x : Plan) (unused : s.plans[i].usage = 0) (written : s.plans[i].Written x)
      (same : (s.setPlan i x).sameTables t)
  | planned {u : State} (same : s.sameTables u) (ops : u.buildPlan.TableOps short t)
  | renumbered {u : State} (op : s.SerialOp u) (same : u.sameTables t)

variable {short : Prop}

theorem State.TableOps.op {s t : State} (h : s.TableOp short t) : s.TableOps short t := Relation.ReflTransGen.single h

theorem State.TableOps.same {s t : State} (h : s.sameTables t) : s.TableOps short t := .op (.quiet h)

theorem State.TableOps.andThen {s t u : State} (h : s.TableOps short t) (g : t.TableOp short u) : s.TableOps short u :=
  Relation.ReflTransGen.tail h g

theorem State.TableOps.andSame {s t u : State} (h : s.TableOps short t) (g : t.sameTables u) : s.TableOps short u := h.andThen (.quiet g)

theorem State.Moved.same {s t : State} (h : s.sameTables t) : s.Moved short t := .kept (.same h)

theorem State.Moved.op {s t : State} (h : s.TableOp short t) : s.Moved short t := .kept (.op h)

theorem State.Moved.serial {s t : State} (h : s.SerialOp t) : s.Moved short t := .renumbered h t.sameTables_refl

theorem State.Moved.refl (s : State) : s.Moved short s := .same s.sameTables_refl

/-- What comes after without touching a table leaves the move as it is. -/
theorem State.Moved.andSame {s t u : State} (h : s.Moved short t) (g : t.sameTables u) : s.Moved short u := by
  cases h with
  | kept ops => exact .kept (ops.andSame g)
  | planWritten i x unused written same => exact .planWritten i x unused written (State.sameTables_trans same g)
  | planned same ops => exact .planned same (ops.andSame g)
  | renumbered op same => exact .renumbered op (State.sameTables_trans same g)

/-- A request moves the tables as its own rule does, if it is taken (R165, R167). -/
theorem State.moved_takeRequest {s : State} {p : Port} {perm : Permission} {body : State → Taken} (h : s.Moved short (body s).1) :
    s.Moved short (s.takeRequest p perm body) :=
  State.takeRequest_cases (.refl s) (fun _ => .same ⟨rfl, rfl, rfl, rfl, rfl⟩) (h.andSame ⟨rfl, rfl, rfl, rfl, rfl⟩)

/-! ### The callout engine's requests -/

theorem State.permitted_moved {s : State} {p : Port} {n : Half} {body : SlotIdx → Callout → Taken}
    (h : ∀ k c, s.slots[k] = some c → s.Moved short (body k c).1) : s.Moved short (s.permitted p n body).1 := by
  unfold State.permitted
  split
  · exact .refl s
  · rename_i k c hl
    split
    · exact h k c (State.lookup_some hl).1
    · exact .refl s

theorem raiseBody_moved (p : Port) (reference : Quad) (plan priority cls : Byte) (location : Three) (s : State) :
    s.Moved short (raiseBody p reference plan priority cls location s).1 := by
  unfold raiseBody
  split
  · exact .refl s
  · split
    · rename_i k c hf
      split
      · exact .op (.merge p k c _ (State.findSlot_some hf).1)
      · exact .refl s
    · split
      · exact .refl s
      · rename_i i _
        split
        · exact .refl s
        · split
          · exact .refl s
          · rename_i k hk
            exact .serial (.allocate p reference i _ cls _ k (State.freeSlot_some hk))

theorem escalateBody_moved (p : Port) (number : Half) (plan : Byte) (s : State) :
    s.Moved short (escalateBody p number plan s).1 := by
  refine State.permitted_moved fun k c hk => ?_
  split
  · rename_i ha
    split
    · rename_i i _
      split
      · exact .serial (.escalate k c i hk ha)
      · exact .refl s
    · exact .refl s
  · exact .refl s

theorem cancelBody_moved (p : Port) (number : Half) (s : State) : s.Moved short (cancelBody p number s).1 := by
  refine State.permitted_moved fun k c hk => ?_
  split
  · exact .serial (.cancel k c hk)
  · exact .refl s

theorem markDepartedBody_moved (number : Half) (s : State) : s.Moved short (markDepartedBody number s).1 := by
  unfold markDepartedBody
  split
  · exact .refl s
  · rename_i k c hl
    split
    · exact .serial (.depart k c (State.lookup_some hl).1)
    · exact .refl s

theorem releaseBody_moved (p : Port) (number : Half) (s : State) : s.Moved short (releaseBody p number s).1 := by
  refine State.permitted_moved fun k c hk => ?_
  split
  · exact .op (.release k c)
  · exact .refl s

/-- The hold that expires is a Holding callout's (R48). -/
theorem Callout.lifecycle_of_isDue {c : Callout} (h : c.isDue = true) :
    ∃ deadline due repeats rate, c.lifecycle = .active ⟨.holding deadline due, repeats, rate⟩ := by
  unfold Callout.isDue at h
  split at h
  · rename_i deadline due repeats rate hl
    exact ⟨deadline, due, repeats, rate, hl⟩
  · cases h

theorem execHoldExpiry_moved (s t : State) (h : execHoldExpiry s = .next t) : s.Moved short t := by
  cases h
  split
  · exact .refl s
  · split
    · rename_i k c hf
      obtain ⟨hk, hd⟩ := State.findSlot_some hf
      obtain ⟨deadline, due, repeats, rate, hl⟩ := Callout.lifecycle_of_isDue hd
      simp only [hl]
      exact .serial (.expire k c repeats deadline rate due hk hl)
    · exact .refl s

/-! ### Replies -/

/-- The slot of a callout that a reply withdraws its member from is another. -/
theorem State.weigh_withdrawing {s : State} {c : Callout} {r : Reply} {kd : SlotIdx} {d : Callout}
    (h : s.weigh c r = .withdrawing kd d) : s.slots[kd] = some d ∧ d.number ≠ c.number := by
  rcases s.weigh_cases c r with ⟨hw, -⟩ | ⟨k, x, hw, -, hn, -, hs, -⟩ | ⟨hw, -⟩ <;> rw [hw] at h <;> cases h
  exact ⟨hs, hn⟩

/-- What a withdrawal leaves in the slots (R72). -/
theorem State.withdraw_slots (s : State) (k : SlotIdx) (d : Callout) (r : Reply) :
    (s.withdraw k d r).slots = s.slots.set k (some (s.evaluated { d with entries := withdrawEntry d.entries r.member })) := by
  have h := (s.withdraw_effect k d r).sameTables
  rw [h.slots, (State.settle_frame _ _ _).2]
  rfl

theorem State.handleReply_moved (s : State) (k : SlotIdx) (c : Callout) (r : Reply) (hk : s.slots[k] = some c)
    (eta : short → ∀ n ∈ r.eta, n ≤ 30) : s.TableOps short (s.handleReply k c r).1 := by
  have outcomes := s.handleReply_cases k c r
  dsimp only at outcomes
  rcases outcomes with ⟨-, h⟩ | ⟨-, h⟩ | ⟨-, (⟨kd, d, hw, h⟩ | ⟨-, h⟩ | ⟨-, h⟩)⟩
  · rw [h]; exact .same (s.sameTables_raiseNotice _ _)
  · rw [h]
  · obtain ⟨hd, hn⟩ := State.weigh_withdrawing hw
    have hne : k ≠ kd := by
      rintro rfl
      rw [hk] at hd
      cases hd
      exact hn rfl
    have held : (s.withdraw kd d r).slots[k] = some c := by
      simp only [State.withdraw_slots]
      exact (State.slots_setSlot_other s _ hne).trans hk
    rw [h]; exact State.TableOps.andThen (.op (.withdraw kd d r hd)) (.record k c r _ _ _ held eta)
  · rw [h]; exact .op (.record k c r _ _ _ hk eta)
  · rw [h]; exact .op (.record k c r _ _ _ hk eta)

/-- An ETA read from a byte is at most 30 minutes (R68). -/
theorem readEta_le (b : Byte) : ∀ n ∈ readEta b, n ≤ 30 := by
  intro n h
  unfold readEta at h
  split at h
  · cases h
    exact Nat.min_le_left _ _
  · cases h

theorem recordReplyBody_moved (p : Port) (member : Byte) (number : Half) (answer eta : Byte) (s : State) :
    s.Moved short (recordReplyBody p member number answer eta s).1 := by
  unfold recordReplyBody
  split
  · split
    · split
      · exact .refl s
      · rename_i k c hl
        split
        · exact .refl s
        · split
          · exact .refl s
          · exact .kept (s.handleReply_moved k c _ (State.lookup_some hl).1 fun _ => readEta_le eta)
    · exact .refl s
  · exact .refl s

theorem markArrivedBody_moved (p : Port) (member : Byte) (number : Half) (s : State) :
    s.Moved short (markArrivedBody p member number s).1 := by
  unfold markArrivedBody
  split
  · exact .refl s
  · split
    · split
      · exact .refl s
      · rename_i k c hl
        split
        · exact .refl s
        · split
          · exact .refl s
          · exact .kept (s.handleReply_moved k c _ (State.lookup_some hl).1 fun _ _ h => by cases h)
    · exact .refl s

end Sys2Proof.Machine
end

section

namespace Sys2Proof.Machine

open Sys2Proof

variable {short : Prop}

theorem State.takeHandOff_moved (s : State) (h : HandOff) (eta : short → ∀ n ∈ h.eta, n ≤ 30) : s.TableOps short (s.takeHandOff h) := by
  unfold State.takeHandOff
  split
  · exact .same s.sameTables_refl
  · rename_i k c hl
    split
    · exact s.handleReply_moved k c _ (State.lookup_some hl).1 eta
    · exact .same s.sameTables_refl

/-! ### The roster's requests -/

theorem setAvailabilityBody_moved (p : Port) (member availability : Byte) (s : State) :
    s.Moved short (setAvailabilityBody p member availability s).1 := by
  unfold setAvailabilityBody
  split
  · rename_i m v _ _
    split
    · have told : s.Moved short (s.setMember m { s.member m with availability := v, source := .port p }) :=
        .op (.tellMember m _ rfl rfl)
      exact told.andSame (State.sameTables_raiseNotice _ _ _)
    · exact .refl s
  · exact .refl s

/-- A pager record that a Write member carries has an address only of kind Digital, and then not 0 (R16 check 3). -/
theorem readPager_address {kind toneGroup : Byte} {address : Three} {groups : Half} {a : BitVec 20} {g : BitVec 12}
    (h : readPager kind address toneGroup groups = some (.digital a g)) : a ≠ 0 := by
  unfold readPager at h
  split at h
  · cases h
  · split at h
    · split at h
      · rename_i hr
        cases h
        intro h0
        have h0 : (address.setWidth 20).toNat = 0 := congrArg BitVec.toNat h0
        rw [BitVec.toNat_setWidth] at h0
        omega
      · cases h
    · split at h
      · cases hi : readIndex 16 toneGroup <;> simp [hi] at h
      · cases h

/-- An address is taken exactly when another in-use Digital record holds it (R16 check 4). -/
theorem State.addressTaken_digital {s : State} {m : MemberIdx} {a : BitVec 20} {g : BitVec 12} :
    s.addressTaken m (.digital a g) = true ↔ ∃ k, k ≠ m ∧ (s.member k).address = some a := by
  simp [State.addressTaken, allMembers]

theorem writeMemberBody_moved (p : Port) (member inUse kind : Byte) (address : Three) (toneGroup quals : Byte) (groups : Half)
    (eta availability : Byte) (s : State) :
    s.Moved short (writeMemberBody p member inUse kind address toneGroup quals groups eta availability s).1 := by
  have store : ∀ (m : MemberIdx) (x : Member), s.TableOp short (s.setMember m x) → s.Moved short (s.storeMember m x) := by
    intro m x h
    unfold State.storeMember
    split
    · exact .op h
    · exact (State.Moved.op h).andSame (State.sameTables_raiseNotice _ _ _)
  unfold writeMemberBody
  split
  · exact .refl s
  · rename_i m _
    split
    · exact .refl s
    · split
      · exact store m _ (.writeMember m _ (fun a h => by cases h) (Nat.zero_le _))
      · split
        · exact .refl s
        · split
          · rename_i v pager _ hp
            split
            · exact .refl s
            · rename_i free
              refine store m _ (.writeMember m _ (fun a h => ?_) (Nat.min_le_left _ _))
              cases pager with
              | absent => cases h
              | tone g => cases h
              | digital b g =>
                cases h
                refine ⟨readPager_address hp, fun k hk ha => free (State.addressTaken_digital.2 ⟨k, hk, ha⟩)⟩
          · exact .refl s

/-! ### The plan table's requests -/

/-- A clamp stores within its range. -/
theorem clamp_range {low high : Nat} (h : low ≤ high) (n : Nat) : low ≤ clamp low high n ∧ clamp low high n ≤ high := by
  unfold clamp
  split
  · omega
  · split <;> omega

/-- The action that a Write plan step carries is in range (R24, R27). -/
theorem readAction_inRange {kind count toneGroup rate : Byte} {groups : Half} {a : Action}
    (h : readAction kind groups count toneGroup rate = some a) : a.inRange := by
  unfold readAction at h
  split at h
  · split at h
    · split at h
      · cases h
      · cases h
        assumption
    · cases h
  · split at h
    · obtain ⟨r, -, rfl⟩ := Option.map_eq_some_iff.1 h
      exact clamp_range (by decide) _
    · split at h
      · obtain ⟨g, -, rfl⟩ := Option.map_eq_some_iff.1 h
        trivial
      · split at h <;> cases h
        trivial

/-- The step that a Write plan step carries is in range (R24, R26, R28). -/
theorem readStep_inRange {kind count toneGroup condition repeats rate : Byte} {groups hold : Half} {x : PlanStep}
    (h : readStep kind groups count toneGroup condition hold repeats rate = some x) : x.inRange := by
  unfold readStep at h
  split at h
  · cases h; trivial
  · split at h
    · rename_i ha _
      split at h <;> cases h
      obtain ⟨hl, hh⟩ := clamp_range (low := 10) (high := 900) (by decide) hold.toNat
      exact ⟨readAction_inRange ha, hl, hh, by assumption⟩
    · cases h

theorem writePlanStepBody_moved (plan step kind : Byte) (groups : Half) (count toneGroup condition : Byte) (hold : Half)
    (repeats rate : Byte) (s : State) :
    s.Moved short (writePlanStepBody plan step kind groups count toneGroup condition hold repeats rate s).1 := by
  unfold writePlanStepBody
  split
  · rename_i i j _ _
    split
    · exact .refl s
    · rename_i unused
      split
      · exact .refl s
      · rename_i x hx
        split
        · exact .refl s
        · rename_i first
          refine .planWritten i _ (by simpa using unused) (.step j x (readStep_inRange hx) fun hj hf => ?_)
            (State.sameTables_refl _)
          simpa [hj, hf] using first
  · exact .refl s

/-- A template that passes the checks of R23 is stored in range, and written. -/
theorem storedTemplate_inRange {officer driver wearer total target : Nat} (ho : officer ≤ 1) (hd : driver ≤ 2)
    (hw : wearer ≤ 4) : (storedTemplate officer driver wearer total target).inRange ∧
      (storedTemplate officer driver wearer total target).written = true := by
  obtain ⟨t1, t2⟩ := clamp_range (low := 1) (high := 8) (by decide) total
  obtain ⟨g1, g2⟩ := clamp_range (low := 60) (high := 1800) (by decide) target
  refine ⟨Or.inr ?_, decide_eq_true ?_⟩ <;> simp only [storedTemplate] <;> omega

theorem writeTemplateBody_moved (plan officer driver wearer total : Byte) (target : Half) (s : State) :
    s.Moved short (writeTemplateBody plan officer driver wearer total target s).1 := by
  unfold writeTemplateBody
  split
  · exact .refl s
  · rename_i i _
    split
    · exact .refl s
    · rename_i unused
      split
      · rename_i hr
        obtain ⟨hi, hw⟩ := storedTemplate_inRange (total := total.toNat) (target := target.toNat) hr.1 hr.2.1 hr.2.2
        exact .planWritten i _ (by simpa using unused) (.template _ hi hw) (State.sameTables_refl _)
      · exact .refl s

/-! ### The channel -/

/-- A keying decision touches no table, or returns the items of the cycle plan (R121). -/
theorem State.keyingDecision_moved (s : State) (pins : SitePins) : s.TableOps short (s.keyingDecision pins) := by
  unfold State.keyingDecision
  dsimp only
  split
  · exact .same ⟨rfl, rfl, rfl, rfl, rfl⟩
  · split
    · split
      · exact .same (State.sameTables_trans (s.sameTables_select _ _) ⟨rfl, rfl, rfl, rfl, rfl⟩)
      · exact .same ⟨rfl, rfl, rfl, rfl, rfl⟩
    · exact (State.TableOps.op .returnUnsent).andSame ⟨rfl, rfl, rfl, rfl, rfl⟩

/-- A plan point builds a cycle plan, and may return its items (R114, R121). -/
theorem State.openCycle_moved {s u : State} (h : s.sameTables u) (lone : Bool) (pins : SitePins) :
    s.Moved short (u.openCycle lone pins) := by
  refine .planned (u := { u with channel := { u.channel with cycle := u.channel.cycle + 1, pos := .lead lone 0 } })
    (State.sameTables_trans h ⟨rfl, rfl, rfl, rfl, rfl⟩) ?_
  unfold State.openCycle
  dsimp only
  refine Relation.ReflTransGen.trans (State.TableOps.same ?_) (State.keyingDecision_moved _ pins)
  refine State.sameTables_trans ?_ (State.sameTables_sampleSite _ pins)
  exact ⟨rfl, rfl, rfl, rfl, rfl⟩

/-- The channel's stop is the engine's action on every slot, and touches no table beside (R58, R107). -/
theorem State.stopChannel_moved (s : State) (why : ChannelCause) : s.TableOps short (s.stopChannel why) := by
  have rested : s.sameTables { s.unkey with channel := { s.unkey.channel with pos := .absent } } :=
    ⟨rfl, rfl, rfl, rfl, rfl⟩
  have stopped := State.TableOps.same (short := short) (State.sameTables_trans rested (State.sameTables_changeChannel _ .stopped why))
  exact stopped.andThen .stopSlots

/-- The channel's reaction to a loss: the items returned, and in Stopping the stop (R129). -/
theorem State.loseClock_moved (s : State) : s.TableOps short s.loseClock := by
  unfold State.loseClock
  split
  · have rested : s.TableOps short { s.returnUnsent.unkey with
        channel := { s.returnUnsent.unkey.channel with pos := .absent }, rx := .afterReset } :=
      (State.TableOps.op .returnUnsent).andSame ⟨rfl, rfl, rfl, rfl, rfl⟩
    dsimp only
    split
    · exact rested.andSame (State.sameTables_changeChannel _ .suspended .clockLost)
    · exact rested.trans (State.stopChannel_moved _ .clockLost)
  · exact .same s.sameTables_refl

theorem State.loseReference_moved (s : State) : s.TableOps short s.loseReference := by
  unfold State.loseReference
  refine Relation.ReflTransGen.trans (State.TableOps.same ?_) (State.loseClock_moved _)
  exact ⟨rfl, rfl, rfl, rfl, rfl⟩

theorem startChannelBody_moved (pins : SitePins) (s : State) : s.Moved short (startChannelBody pins s).1 := by
  unfold startChannelBody
  split
  · exact .refl s
  · split
    · exact State.openCycle_moved (s.sameTables_changeChannel .running .start) true pins
    · exact .same (s.sameTables_changeChannel .suspended .start)

theorem stopChannelBody_moved (s : State) : s.Moved short (stopChannelBody s).1 := by
  unfold stopChannelBody done
  split
  · exact .same (s.sameTables_changeChannel .stopping .stop)
  · dsimp only
    exact .kept (s.stopChannel_moved .stop)
  · exact .refl s

theorem setChannelParametersBody_moved (station limit threshold mode level : Byte) (s : State) :
    s.Moved short (setChannelParametersBody station limit threshold mode level s).1 := by
  unfold setChannelParametersBody
  split
  · exact .refl s
  · split
    · exact .refl s
    · split
      · exact .refl s
      · exact .same ⟨rfl, rfl, rfl, rfl, rfl⟩

theorem selectSiteBody_moved (site : Byte) (s : State) : s.Moved short (selectSiteBody site s).1 := by
  unfold selectSiteBody
  split
  · exact .refl s
  · rename_i x _
    exact .same (s.sameTables_select x .request)

/-- A symbol time sends at most one item on the air (R117, R133). -/
theorem State.advanceSymbol_moved (s : State) (pins : RxPins) : s.TableOps short (s.advanceSymbol pins) := by
  have send : ∀ p, s.TableOps short (s.sendSymbol p) := by
    intro p
    unfold State.sendSymbol
    split
    · exact .same ⟨rfl, rfl, rfl, rfl, rfl⟩
    · split
      · exact .same ⟨rfl, rfl, rfl, rfl, rfl⟩
      · split
        · exact .same s.sameTables_refl
        · rename_i e he
          have unsent : e.unsent = true := by
            have := List.find?_some he
            simp only [Bool.and_eq_true] at this
            exact this.1.1
          dsimp only
          split
          · exact (State.TableOps.op (.send e unsent)).andSame ⟨rfl, rfl, rfl, rfl, rfl⟩
          · exact .same ⟨rfl, rfl, rfl, rfl, rfl⟩
  have sample : ∀ (u : State) p, u.sameTables (u.sampleReply p pins) := by
    intro u p
    unfold State.sampleReply
    split <;> exact ⟨rfl, rfl, rfl, rfl, rfl⟩
  unfold State.advanceSymbol
  split
  · exact .same s.sameTables_refl
  · split <;> exact .same ⟨rfl, rfl, rfl, rfl, rfl⟩
  · rename_i p _
    dsimp only
    split
    · exact (send p).andSame (State.sameTables_trans (sample _ p) ⟨rfl, rfl, rfl, rfl, rfl⟩)
    · exact .same (State.sameTables_trans (sample _ p) ⟨rfl, rfl, rfl, rfl, rfl⟩)

/-! ### The receiver -/

/-- An ETA field of a burst is at most 30 minutes, or absent (R160). -/
theorem burstEta_le (e : BitVec 5) : ∀ n ∈ burstEta e, n ≤ 30 := by
  intro n h
  unfold burstEta at h
  split at h
  · cases h
  · rename_i he
    cases h
    have := e.isLt
    have : e.toNat ≠ 31 := fun h => he (BitVec.eq_of_toNat_eq h)
    omega

theorem State.statusReply_moved (s : State) (k : MemberIdx) (v : Availability) : s.TableOps short (s.statusReply k v) := by
  unfold State.statusReply
  split
  · exact .same s.sameTables_refl
  · have told : s.TableOps short (s.setMember k { s.member k with availability := v, source := .pager }) :=
      .op (.tellMember k _ rfl rfl)
    exact told.andSame (State.sameTables_raiseNotice _ _ _)

theorem State.accept_moved (s : State) (k : MemberIdx) (w : BitVec 24) : s.TableOps short (s.accept k w) := by
  have heard : s.TableOps short (s.setMember k { s.member k with lastHeard := some s.channel.cycle }) :=
    .op (.tellMember k _ rfl rfl)
  unfold State.accept
  dsimp only
  split
  · exact heard.andThen (.handOn k _ _ _ (burstEta_le _))
  · exact heard.andThen (.handOn k _ _ _ fun _ h => by cases h)
  · exact heard.trans (State.statusReply_moved _ k _)
  · exact heard.trans (State.statusReply_moved _ k _)

theorem State.endCell_moved (s : State) (k : MemberIdx) : s.TableOps short (s.endCell k) := by
  have settled : s.TableOps short (s.settleCell k) := by
    unfold State.settleCell
    split
    · exact .same s.sameTables_refl
    · exact .same ⟨rfl, rfl, rfl, rfl, rfl⟩
    · exact s.accept_moved k _
  have closed : ∀ u : State, u.sameTables u.closeSection := by
    intro u
    unfold State.closeSection
    dsimp only
    split <;> exact ⟨rfl, rfl, rfl, rfl, rfl⟩
  have cleared : s.TableOps short { s.settleCell k with rx := (s.settleCell k).rx.clearedCell } :=
    settled.andSame ⟨rfl, rfl, rfl, rfl, rfl⟩
  unfold State.endCell
  dsimp only
  split
  · exact cleared.andSame (closed _)
  · exact cleared

end Sys2Proof.Machine
end

section

namespace Sys2Proof.Machine

open Sys2Proof

variable {short : Prop}

theorem State.readNamed_moved (s : State) (number : Half) (fields : SlotIdx → Callout → List Byte) :
    s.Moved short (s.readNamed number fields).1 := by
  unfold State.readNamed; split <;> exact .refl s

/-! ### Events -/

theorem execCalloutReply_moved (s t : State) (replies : short → ∀ h ∈ s.handOffs, ∀ n ∈ h.eta, n ≤ 30)
    (h : execCalloutReply s = .next t) : s.Moved short t := by
  cases h
  split
  · exact .refl s
  · split
    · exact .refl s
    · rename_i x rest hx
      have dropped : s.TableOps short { s with handOffs := rest } := .op (.dropHandOff x rest hx)
      have eta : short → ∀ n ∈ x.eta, n ≤ 30 := fun known => replies known x (by rw [hx]; exact List.mem_cons_self)
      exact .kept (dropped.trans (State.takeHandOff_moved _ x eta))

theorem execUnknownRequest_moved (p : Port) (code : Byte) (s t : State) (h : execUnknownRequest p code s = .next t) :
    s.Moved short t := by
  cases h
  split
  · exact .same ⟨rfl, rfl, rfl, rfl, rfl⟩
  · exact .refl s

theorem execFrameOpen_moved (p : Port) (s t : State) (h : execFrameOpen p s = .next t) : s.Moved short t := by
  cases h
  split
  · exact .refl s
  · exact .same ⟨rfl, rfl, rfl, rfl, rfl⟩

theorem execFrameClose_moved (p : Port) (s t : State) (h : execFrameClose p s = .next t) : s.Moved short t := by
  cases h
  split
  · exact .refl s
  · exact .same ⟨rfl, rfl, rfl, rfl, rfl⟩

theorem execOneSecondTick_moved (s t : State) (h : execOneSecondTick s = .next t) : s.Moved short t := by
  cases h
  split
  · exact .refl s
  · exact (State.Moved.op .tick).andSame ⟨rfl, rfl, rfl, rfl, rfl⟩

theorem execPlanPoint_moved (pins : SitePins) (s t : State) (h : execPlanPoint pins s = .next t) : s.Moved short t := by
  cases h
  split
  · split
    · exact State.openCycle_moved s.sameTables_refl false pins
    · exact .kept (s.stopChannel_moved .endOfCycle)
  · exact .refl s

theorem execFrameAssembly_moved (s t : State) (h : execFrameAssembly s = .next t) : s.Moved short t := by
  cases h
  split
  · split
    · exact .same ⟨rfl, rfl, rfl, rfl, rfl⟩
    · exact .refl s
  · exact .refl s

theorem execToneCallStart_moved (s t : State) (h : execToneCallStart s = .next t) : s.Moved short t := by
  cases h
  split
  · split
    · unfold State.startTone
      split
      · exact .same ⟨rfl, rfl, rfl, rfl, rfl⟩
      · exact .refl s
    · exact .refl s
  · exact .refl s

theorem execCompletion_moved (s t : State) (h : execCompletion s = .next t) : s.Moved short t := by
  cases h
  split
  · split
    · rename_i e he
      exact .op (.complete e he)
    · exact .refl s
  · exact .refl s

theorem execKeyedPeriodEnd_moved (s t : State) (h : execKeyedPeriodEnd s = .next t) : s.Moved short t := by
  cases h
  split
  · exact .same ⟨rfl, rfl, rfl, rfl, rfl⟩
  · exact .refl s

theorem execReadyLoss_moved (site : Site) (s t : State) (h : execReadyLoss site s = .next t) : s.Moved short t := by
  cases h
  split
  · have sampled : s.TableOps short { s with inputs := s.inputs.unready site } := .same ⟨rfl, rfl, rfl, rfl, rfl⟩
    exact .kept ((sampled.andThen .returnUnsent).andSame ⟨rfl, rfl, rfl, rfl, rfl⟩)
  · exact .refl s

theorem execCellEnd_moved (s t : State) (h : execCellEnd s = .next t) : s.Moved short t := by
  cases h
  split
  · split
    · rename_i k _
      split
      · exact .refl s
      · exact .kept (s.endCell_moved k)
    · exact .refl s
  · exact .refl s

theorem execReferenceLost_moved (s t : State) (h : execReferenceLost s = .next t) : s.Moved short t := by
  cases h
  split
  · exact .kept s.loseReference_moved
  · exact .refl s

theorem execRestoreGap_moved (s t : State) (h : execRestoreGap s = .next t) : s.Moved short t := by
  cases h
  split
  · exact .refl s
  · split
    · exact .kept s.loseReference_moved
    · split
      · exact .refl s
      · exact .same ⟨rfl, rfl, rfl, rfl, rfl⟩

theorem execRestored_moved (pins : SitePins) (s t : State) (h : execRestored pins s = .next t) : s.Moved short t := by
  cases h
  split
  · have restored : s.sameTables ({ s with
          sup := { s.sup with clock := .reference, restore := .idle }
          tx := { s.tx with restoreWord := true } }.raiseNotice .every
        (clockRestoredNotice s.sup.fallbackTicks s.channel.cycle)) := ⟨rfl, rfl, rfl, rfl, rfl⟩
    dsimp only
    unfold State.resumeChannel
    split
    · exact State.openCycle_moved (State.sameTables_trans restored (State.sameTables_changeChannel _ .running .clockRestored)) true pins
    · exact .same restored
  · exact .refl s

theorem execReset_moved (s t : State) (h : execReset s = .next t) : s.Moved short t := by
  cases h
  exact .same ⟨rfl, rfl, rfl, rfl, rfl⟩

/-- Reset contents in every table (R2, R21, R34). -/
theorem execResetEnd_moved (pins : ResetPins) (s t : State) (h : execResetEnd pins s = .next t) : s.Moved short t := by
  cases h
  split
  · exact .op (.clear (fun _ => Vector.getElem_replicate _) (fun _ => Vector.getElem_replicate _)
      (fun _ => Vector.getElem_replicate _) (Or.inr rfl))
  · exact .refl s

theorem execSelfTestEnd_moved (results : GroupResults) (s t : State) (h : execSelfTestEnd results s = .next t) :
    s.Moved short t := by
  cases h
  split
  · exact .op (.clear (fun _ => Vector.getElem_replicate _) (fun _ => Vector.getElem_replicate _)
      (fun _ => Vector.getElem_replicate _) (Or.inl rfl))
  · exact .refl s

theorem execSymbolTime_moved (pins : RxPins) (s t : State) (h : execSymbolTime pins s = .next t) : s.Moved short t := by
  cases h
  split
  · exact .kept (s.advanceSymbol_moved pins)
  · exact .refl s

theorem execSampleTime_moved (s t : State) (h : execSampleTime s = .next t) : s.Moved short t := by
  cases h
  split
  · exact .same ⟨rfl, rfl, rfl, rfl, rfl⟩
  · exact .refl s

/-! ### Every command -/

/-- Whatever a command does, it does by the operations of the tables. -/
theorem exec_moved (c : Instr) (s t : State) (replies : short → ∀ h ∈ s.handOffs, ∀ n ∈ h.eta, n ≤ 30)
    (h : exec c s = .next t) : s.Moved short t := by
  cases c with
  | raise => cases h; exact State.moved_takeRequest (raiseBody_moved _ _ _ _ _ _ s)
  | cancel => cases h; exact State.moved_takeRequest (cancelBody_moved _ _ s)
  | escalate => cases h; exact State.moved_takeRequest (escalateBody_moved _ _ _ s)
  | markDeparted => cases h; exact State.moved_takeRequest (markDepartedBody_moved _ s)
  | release => cases h; exact State.moved_takeRequest (releaseBody_moved _ _ s)
  | recordReply => cases h; exact State.moved_takeRequest (recordReplyBody_moved _ _ _ _ _ s)
  | markArrived => cases h; exact State.moved_takeRequest (markArrivedBody_moved _ _ _ s)
  | calloutReply => exact execCalloutReply_moved s t replies h
  | setAvailability => cases h; exact State.moved_takeRequest (setAvailabilityBody_moved _ _ _ s)
  | writeMember => cases h; exact State.moved_takeRequest (writeMemberBody_moved _ _ _ _ _ _ _ _ _ _ s)
  | readMember p member =>
    cases h; refine State.moved_takeRequest ?_
    unfold readMemberBody; split <;> exact .refl s
  | writePlanStep => cases h; exact State.moved_takeRequest (writePlanStepBody_moved _ _ _ _ _ _ _ _ _ _ s)
  | writeTemplate => cases h; exact State.moved_takeRequest (writeTemplateBody_moved _ _ _ _ _ _ s)
  | readPlan p plan =>
    cases h; refine State.moved_takeRequest ?_
    unfold readPlanBody; split <;> exact .refl s
  | writeToneFrequency p i f =>
    cases h; refine State.moved_takeRequest ?_
    unfold writeToneFrequencyBody
    split
    · exact .refl s
    · exact .same ⟨rfl, rfl, rfl, rfl, rfl⟩
  | writeTonePair p g a b =>
    cases h; refine State.moved_takeRequest ?_
    unfold writeTonePairBody
    split
    · exact .same ⟨rfl, rfl, rfl, rfl, rfl⟩
    · exact .refl s
  | readToneTables => cases h; exact State.moved_takeRequest (.refl s)
  | listCallouts => cases h; exact State.moved_takeRequest (.refl s)
  | readCallout => cases h; exact State.moved_takeRequest (s.readNamed_moved _ _)
  | readResponders => cases h; exact State.moved_takeRequest (s.readNamed_moved _ _)
  | readCrew => cases h; exact State.moved_takeRequest (s.readNamed_moved _ _)
  | readNotice p =>
    cases h; refine State.moved_takeRequest ?_
    unfold readNoticeBody
    dsimp only
    split <;> exact .same ⟨rfl, rfl, rfl, rfl, rfl⟩
  | readStatus => cases h; exact State.moved_takeRequest (.refl s)
  | setChannelParameters => cases h; exact State.moved_takeRequest (setChannelParametersBody_moved _ _ _ _ _ s)
  | startChannel => cases h; exact State.moved_takeRequest (startChannelBody_moved _ s)
  | stopChannel => cases h; exact State.moved_takeRequest (stopChannelBody_moved s)
  | selectSite => cases h; exact State.moved_takeRequest (selectSiteBody_moved _ s)
  | unknownRequest p code => exact execUnknownRequest_moved p code s t h
  | frameOpen p => exact execFrameOpen_moved p s t h
  | frameClose p => exact execFrameClose_moved p s t h
  | oneSecondTick => exact execOneSecondTick_moved s t h
  | holdExpiry => exact execHoldExpiry_moved s t h
  | planPoint pins => exact execPlanPoint_moved pins s t h
  | frameAssembly => exact execFrameAssembly_moved s t h
  | toneCallStart => exact execToneCallStart_moved s t h
  | completion => exact execCompletion_moved s t h
  | keyedPeriodEnd => exact execKeyedPeriodEnd_moved s t h
  | readyLoss site => exact execReadyLoss_moved site s t h
  | cellEnd => exact execCellEnd_moved s t h
  | referenceLost => exact execReferenceLost_moved s t h
  | restoreGap => exact execRestoreGap_moved s t h
  | restored pins => exact execRestored_moved pins s t h
  | reset => exact execReset_moved s t h
  | resetEnd pins => exact execResetEnd_moved pins s t h
  | selfTestEnd results => exact execSelfTestEnd_moved results s t h
  | symbolTime pins => exact execSymbolTime_moved pins s t h
  | sampleTime => exact execSampleTime_moved s t h

end Sys2Proof.Machine
end

section

namespace Sys2Proof.Machine

open Sys2Proof

variable {short : Prop}

/-- A step moves the tables as the command at the front does; a clock period touches none. -/
theorem step_moved (s t : State) (replies : short → ∀ h ∈ s.handOffs, ∀ n ∈ h.eta, n ≤ 30) (h : step s = .next t) :
    ∃ u, s.sameTables u ∧ u.Moved short t := by
  unfold step at h
  split at h
  · cases h
    exact ⟨s, s.sameTables_refl, .same (State.sameTables_of_frame s.clockPeriod_frame.1 ⟨rfl, rfl, rfl, rfl, rfl⟩)⟩
  · rename_i c rest _
    exact ⟨{ s with pending := rest }, ⟨rfl, rfl, rfl, rfl, rfl⟩, exec_moved c _ t replies h⟩

end Sys2Proof.Machine
end

section
/-! PROOF. What each operation of the tables leaves of the stores beside the callouts' slots: the members' addresses and default
ETAs, the plans' templates and steps, the replies on their way. -/

namespace Sys2Proof.Machine

open Sys2Proof

variable {short : Prop}

/-- Every member keeps its address and default ETA, every plan its template and steps, and the replies on their way stay. -/
structure State.storesKept (s t : State) : Prop where
  roster : ∀ m : MemberIdx, (t.member m).address = (s.member m).address ∧ (t.member m).defaultEta = (s.member m).defaultEta
  plans : ∀ i : PlanIdx, t.plans[i].template = s.plans[i].template ∧ t.plans[i].steps = s.plans[i].steps
  handOffs : t.handOffs = s.handOffs

theorem State.storesKept_of_eq {s t : State} (roster : t.roster = s.roster) (plans : t.plans = s.plans)
    (handOffs : t.handOffs = s.handOffs) : s.storesKept t := by
  refine ⟨fun m => ?_, fun i => ?_, handOffs⟩
  · simp only [State.member, roster, and_self]
  · simp only [plans, and_self]

theorem State.storesKept_refl (s : State) : s.storesKept s := State.storesKept_of_eq rfl rfl rfl

theorem State.storesKept_trans {s t u : State} (h : s.storesKept t) (g : t.storesKept u) : s.storesKept u :=
  ⟨fun m => ⟨(g.roster m).1.trans (h.roster m).1, (g.roster m).2.trans (h.roster m).2⟩,
    fun i => ⟨(g.plans i).1.trans (h.plans i).1, (g.plans i).2.trans (h.plans i).2⟩, g.handOffs.trans h.handOffs⟩

/-- A frame equation carries the stores over. -/
theorem State.storesKept_of_frame {s t u : State} (frame : u = s) (h : u.storesKept t) : s.storesKept t := frame ▸ h

theorem State.sameTables.storesKept {s t : State} (h : s.sameTables t) : s.storesKept t :=
  State.storesKept_of_eq h.roster h.plans h.handOffs

theorem State.noticed.storesKept {s t : State} (h : s.noticed t) : s.storesKept t := h.sameTables.storesKept

theorem State.storesKept_setSlot (s : State) (k : SlotIdx) (x : Option Callout) : s.storesKept (s.setSlot k x) :=
  State.storesKept_of_eq rfl rfl rfl

/-- A member record written again with its address and default ETA keeps the stores. -/
theorem State.storesKept_setMember {s : State} {m : MemberIdx} {x : Member} (address : x.address = (s.member m).address)
    (eta : x.defaultEta = (s.member m).defaultEta) : s.storesKept (s.setMember m x) := by
  refine ⟨fun k => ?_, fun _ => ⟨rfl, rfl⟩, rfl⟩
  by_cases hk : k = m
  · subst hk
    rw [State.member_setMember_self]
    exact ⟨address, eta⟩
  · rw [State.member_setMember_other _ _ hk]
    exact ⟨rfl, rfl⟩

theorem State.storesKept_engage (s : State) (m : MemberIdx) (e : Engagement) : s.storesKept (s.engage m e) :=
  State.storesKept_setMember rfl rfl

theorem State.storesKept_disengage (s : State) (which : Engagement → Bool) : s.storesKept (s.disengage which) := by
  refine ⟨fun m => ?_, fun _ => ⟨rfl, rfl⟩, rfl⟩
  rw [State.member_disengage]
  split <;> exact ⟨rfl, rfl⟩

/-- A plan's usage count is none of its template or steps (R29). -/
theorem State.storesKept_setUsage (s : State) (i : PlanIdx) (n : Nat) :
    s.storesKept (s.setPlan i { s.plans[i] with usage := n }) := by
  refine ⟨fun _ => ⟨rfl, rfl⟩, fun j => ?_, rfl⟩
  by_cases hj : j = i
  · subst hj
    rw [State.plans_setPlan_self]
    exact ⟨rfl, rfl⟩
  · rw [State.plans_setPlan_other _ _ hj]
    exact ⟨rfl, rfl⟩

theorem State.storesKept_takeUpPlan (s : State) (i : PlanIdx) : s.storesKept (s.takeUpPlan i) := s.storesKept_setUsage i _

theorem State.storesKept_leavePlan (s : State) (i : PlanIdx) : s.storesKept (s.leavePlan i) := s.storesKept_setUsage i _

/-- The crew builder writes engagements alone into the stores (R101). -/
theorem State.storesKept_settle (s : State) (k : SlotIdx) (c : Callout) : s.storesKept (s.settle k c) := by
  have entry : ∀ (u : State) (e : Entry), u.storesKept (State.engageEntry c.number u e) := by
    intro u e
    unfold State.engageEntry
    split
    · exact u.storesKept_engage _ _
    · exact u.storesKept_engage _ _
    · exact u.storesKept_refl
  have all : ∀ (l : List Entry) (u : State), u.storesKept (l.foldl (State.engageEntry c.number) u) := by
    intro l
    induction l with
    | nil => exact fun u => u.storesKept_refl
    | cons e es ih => exact fun u => State.storesKept_trans (entry u e) (ih _)
  exact State.storesKept_trans (s.storesKept_setSlot k _) (all c.entries _)

theorem State.storesKept_record (s : State) (k : SlotIdx) (c : Callout) (r : Reply) (a : Answer) (mark : Bool) (room : Room) :
    s.storesKept (s.record k c r a mark room) := by
  have engaged : s.storesKept (s.engageReply c.number r.member a mark) := by
    unfold State.engageReply
    split
    · split
      · exact s.storesKept_engage _ _
      · exact s.storesKept_refl
    · exact s.storesKept_refl
    · exact s.storesKept_engage _ _
  exact State.storesKept_trans (State.storesKept_trans engaged (State.storesKept_settle _ k _))
    (s.record_effect k c r a mark room).storesKept

theorem State.storesKept_withdraw (s : State) (k : SlotIdx) (d : Callout) (r : Reply) : s.storesKept (s.withdraw k d r) :=
  State.storesKept_trans (State.storesKept_trans (s.storesKept_engage _ _) (State.storesKept_settle _ k _))
    (s.withdraw_effect k d r).storesKept

theorem State.storesKept_returnUnsent (s : State) : s.storesKept s.returnUnsent :=
  State.storesKept_of_frame s.returnUnsent_frame.1 (State.storesKept_of_eq rfl rfl rfl)

theorem State.storesKept_buildPlan (s : State) : s.storesKept s.buildPlan :=
  State.storesKept_of_frame s.buildPlan_frame.1 (State.storesKept_of_eq rfl rfl rfl)

theorem State.storesKept_stopSlots (s : State) : s.storesKept s.stopSlots := by
  have told := s.stopSlots_effect.1.storesKept
  generalize s.stopSlots = u at told ⊢
  exact State.storesKept_trans told (State.storesKept_of_eq rfl rfl rfl)

theorem State.storesKept_complete (s : State) (e : PlannedItem) : s.storesKept (s.complete e) := by
  have matched : ∀ u : State, u.storesKept (u.matchCompletion e.item) := by
    intro u
    have told := (u.matchCompletion_frame e.item).storesKept
    exact State.storesKept_trans told (State.storesKept_of_eq rfl rfl rfl)
  refine State.storesKept_trans ?_ (matched { s.markItem e .sent with tx := (s.markItem e .sent).tx.ended e })
  exact State.storesKept_of_eq rfl rfl rfl

theorem State.storesKept_startStep (s : State) (k : SlotIdx) (i : Nat) (c : Callout) : s.storesKept (s.startStep k i c) := by
  obtain ⟨u, c', hu, he, -⟩ := s.startStep_effect k i c
  exact he ▸ State.storesKept_trans hu.storesKept (u.storesKept_setSlot k _)

theorem State.storesKept_expireHold (s : State) (k : SlotIdx) (c : Callout) (run : ActiveRun) :
    s.storesKept (s.expireHold k c run) := by
  obtain ⟨u, c', hu, he, -⟩ := s.expireHold_effect k c run
  exact he ▸ State.storesKept_trans hu.storesKept (u.storesKept_setSlot k _)

/-- The state of an escalation before the plan's step 0 starts (R51). -/
theorem State.storesKept_changePlan (s : State) (c : Callout) (i : PlanIdx) :
    s.storesKept (if i = c.plan then s else (s.leavePlan c.plan).takeUpPlan i) := by
  split
  · exact s.storesKept_refl
  · exact State.storesKept_trans (s.storesKept_leavePlan _) (State.storesKept_takeUpPlan _ _)

theorem State.storesKept_escalateTo (s : State) (k : SlotIdx) (c : Callout) (i : PlanIdx) :
    s.storesKept (s.escalateTo k c i) := by
  unfold State.escalateTo
  dsimp only
  refine State.storesKept_trans ?_ (State.storesKept_startStep _ k 0 _)
  refine State.storesKept_trans ?_ (State.noticed_raiseCrewStatus _ _ _).storesKept
  exact State.storesKept_trans (s.storesKept_changePlan c i) (State.storesKept_settle _ k _)

/-- The operations that renumber a callout keep the stores. -/
theorem State.SerialOp.storesKept {s t : State} (h : s.SerialOp t) : s.storesKept t := by
  cases h with
  | allocate p reference i priority cls location k =>
    unfold State.allocate
    refine State.storesKept_trans ?_ (State.storesKept_startStep _ k 0 _)
    exact State.storesKept_trans (State.storesKept_takeUpPlan s i) (State.storesKept_of_eq rfl rfl rfl)
  | escalate k c i => exact s.storesKept_escalateTo k c i
  | cancel k c =>
    have left := State.storesKept_trans (s.storesKept_disengage (Engagement.isTo c.number)) (State.storesKept_leavePlan _ c.plan)
    unfold State.cancelCallout
    dsimp only
    split
    · exact State.storesKept_trans left (State.storesKept_setSlot _ _ _)
    · exact State.storesKept_trans left (State.storesKept_of_eq rfl rfl rfl)
  | depart k c =>
    have left := State.storesKept_trans (s.storesKept_disengage (fun e => e = .responding c.number))
      (State.storesKept_leavePlan _ c.plan)
    exact State.storesKept_trans left (State.storesKept_of_eq rfl rfl rfl)
  | expire k c repeats deadline rate due => exact s.storesKept_expireHold k c _

/-- What an operation of the tables does to the stores: it keeps them, or it writes one member record that Write member lets pass,
or it changes the replies on their way alone, or it clears roster and plans. -/
inductive State.StoresMoved (s t : State) : Prop
  | kept (kept : s.storesKept t)
  | member (m : MemberIdx) (x : Member) (same : (s.setMember m x).storesKept t)
      (free : ∀ a, x.address = some a → a ≠ 0 ∧ ∀ k, k ≠ m → (s.member k).address ≠ some a) (eta : x.defaultEta ≤ 30)
  | replies (same : s.storesKept { t with handOffs := s.handOffs })
      (etas : ∀ h ∈ t.handOffs, h ∈ s.handOffs ∨ ∀ n ∈ h.eta, n ≤ 30)
  | cleared (roster : ∀ m, t.member m = .cleared) (plans : ∀ i : PlanIdx, t.plans[i] = .cleared)
      (handOffs : t.handOffs = s.handOffs ∨ t.handOffs = [])

theorem State.TableOp.stores {s t : State} (h : s.TableOp short t) : s.StoresMoved t := by
  cases h with
  | quiet same => exact .kept same.storesKept
  | tellMember m x address eta => exact .kept (State.storesKept_setMember address eta)
  | writeMember m x free eta => exact .member m x (State.storesKept_refl _) free eta
  | merge => exact .kept (State.storesKept_of_eq rfl rfl rfl)
  | release k c =>
    have freed := s.storesKept_disengage fun e => e = .assigned c.number
    exact .kept (State.storesKept_trans freed (State.storesKept_of_eq rfl rfl rfl))
  | record k c r a mark room => exact .kept (s.storesKept_record k c r a mark room)
  | withdraw k d r => exact .kept (s.storesKept_withdraw k d r)
  | dropHandOff x rest waiting =>
    exact .replies (State.storesKept_of_eq rfl rfl rfl) fun h hh => .inl (waiting ▸ List.mem_cons_of_mem _ hh)
  | handOn m a eta tag limited =>
    unfold State.handOn
    split
    · refine .replies (State.storesKept_of_eq rfl rfl rfl) fun h hh => ?_
      rcases List.mem_append.1 hh with hh | hh
      · exact .inl hh
      · exact .inr (List.mem_singleton.1 hh ▸ limited)
    · exact .kept s.storesKept_refl
  | tick => exact .kept (State.storesKept_of_eq rfl rfl rfl)
  | returnUnsent => exact .kept s.storesKept_returnUnsent
  | stopSlots => exact .kept s.storesKept_stopSlots
  | complete e => exact .kept (s.storesKept_complete e)
  | send => exact .kept (State.storesKept_of_eq rfl rfl rfl)
  | clear roster plans slots handOffs => exact .cleared roster plans handOffs

end Sys2Proof.Machine
end

section
/-! PROOF. The address law (R4) is kept by every step. -/

namespace Sys2Proof.Machine

open Sys2Proof

variable {short : Prop}

theorem State.addressesDistinct_of_kept {s t : State} (law : s.addressesDistinct) (h : s.storesKept t) :
    t.addressesDistinct := by
  obtain ⟨nonzero, distinct⟩ := law
  refine ⟨fun m => ?_, fun m k => ?_⟩
  · rw [(h.roster m).1]; exact nonzero m
  · rw [(h.roster m).1, (h.roster k).1]; exact distinct m k

/-- A record whose address no other holds keeps the law (R16 check 4). -/
theorem State.addressesDistinct_setMember {s : State} {m : MemberIdx} {x : Member} (law : s.addressesDistinct)
    (free : ∀ a, x.address = some a → a ≠ 0 ∧ ∀ k, k ≠ m → (s.member k).address ≠ some a) :
    (s.setMember m x).addressesDistinct := by
  obtain ⟨nonzero, distinct⟩ := law
  have apart : ∀ k, k ≠ m → x.address ≠ none → x.address ≠ (s.member k).address := by
    intro k hk hx same
    obtain ⟨a, ha⟩ := Option.ne_none_iff_exists'.1 hx
    exact (free a ha).2 k hk (same ▸ ha)
  refine ⟨fun k => ?_, fun j k hj same => ?_⟩
  · by_cases hk : k = m
    · subst hk
      rw [State.member_setMember_self]
      exact fun h => (free 0 h).1 rfl
    · rw [State.member_setMember_other _ _ hk]
      exact nonzero k
  · by_cases hjm : j = m <;> by_cases hkm : k = m
    · exact hjm.trans hkm.symm
    · subst hjm
      rw [State.member_setMember_self] at hj same
      rw [State.member_setMember_other _ _ hkm] at same
      exact absurd same (apart k hkm hj)
    · subst hkm
      rw [State.member_setMember_self] at same
      rw [State.member_setMember_other _ _ hjm] at hj same
      exact absurd same.symm (apart j hjm (same ▸ hj))
    · rw [State.member_setMember_other _ _ hjm] at hj same
      rw [State.member_setMember_other _ _ hkm] at same
      exact distinct j k hj same

theorem State.StoresMoved.addressesDistinct {s t : State} (h : s.StoresMoved t) (law : s.addressesDistinct) :
    t.addressesDistinct := by
  cases h with
  | kept kept => exact State.addressesDistinct_of_kept law kept
  | member m x same free eta => exact State.addressesDistinct_of_kept (State.addressesDistinct_setMember law free) same
  | replies same etas => exact State.addressesDistinct_of_kept (t := { t with handOffs := s.handOffs }) law same
  | cleared roster plans handOffs =>
    refine ⟨fun m h => ?_, fun m k h => ?_⟩
    · rw [roster m] at h; cases h
    · rw [roster m] at h; exact absurd rfl h

theorem State.TableOps.addressesDistinct {s t : State} (h : s.TableOps short t) (law : s.addressesDistinct) :
    t.addressesDistinct := by
  induction h with
  | refl => exact law
  | tail _ op ih => exact op.stores.addressesDistinct ih

theorem State.Moved.addressesDistinct {s t : State} (h : s.Moved short t) (law : s.addressesDistinct) :
    t.addressesDistinct := by
  cases h with
  | kept ops => exact ops.addressesDistinct law
  | planWritten i x unused written same =>
    exact State.addressesDistinct_of_kept (s := s.setPlan i x) law same.storesKept
  | planned same ops =>
    exact ops.addressesDistinct (State.addressesDistinct_of_kept law
      (State.storesKept_trans same.storesKept (State.storesKept_buildPlan _)))
  | renumbered op same =>
    exact State.addressesDistinct_of_kept law (State.storesKept_trans op.storesKept same.storesKept)

/-- Settles O16: a step keeps the addresses, or writes one record whose address no other holds, or clears the roster. -/
theorem pagerAddressesStayDistinct : Obligations.PagerAddressesStayDistinct := by
  intro s t law h
  obtain ⟨u, same, moved⟩ := step_moved (short := False) s t False.elim h
  exact moved.addressesDistinct (State.addressesDistinct_of_kept law same.storesKept)

end Sys2Proof.Machine
end

section
/-! PROOF. The slots: what each operation of the tables leaves in them, said of every callout at once. -/

namespace Sys2Proof.Machine

open Sys2Proof

/-- Every callout of a state has a property in its slot. -/
def State.everyCallout (s : State) (P : SlotIdx → Callout → Prop) : Prop := ∀ k : SlotIdx, ∀ c ∈ s.slots[k], P k c

/-- Every callout has a property in its slot, but for one slot. -/
def State.otherCallouts (s : State) (k : SlotIdx) (P : SlotIdx → Callout → Prop) : Prop :=
  s.everyCallout fun j c => j ≠ k → P j c

variable {s t : State} {P : SlotIdx → Callout → Prop}

theorem State.everyCallout.others (h : s.everyCallout P) (k : SlotIdx) : s.otherCallouts k P := fun j c hc _ => h j c hc

theorem State.everyCallout_of_slots (h : t.slots = s.slots) : t.everyCallout P ↔ s.everyCallout P := by
  simp only [State.everyCallout, h]

theorem State.everyCallout_of_noticed (h : s.noticed t) : t.everyCallout P ↔ s.everyCallout P :=
  State.everyCallout_of_slots h.sameTables.slots

theorem State.otherCallouts_of_noticed {k : SlotIdx} (h : s.noticed t) : t.otherCallouts k P ↔ s.otherCallouts k P :=
  State.everyCallout_of_noticed h

theorem State.everyCallout_mono {Q : SlotIdx → Callout → Prop} (h : s.everyCallout P) (mono : ∀ k c, P k c → Q k c) :
    s.everyCallout Q :=
  fun k c hc => mono k c (h k c hc)

/-- A slot replaced by nothing, or by a callout with the property. -/
theorem State.everyCallout_setSlot {k : SlotIdx} {x : Option Callout} (h : s.otherCallouts k P) (hx : ∀ c ∈ x, P k c) :
    (s.setSlot k x).everyCallout P := by
  intro j c hc
  rw [State.slots_setSlot] at hc
  split at hc
  · rename_i hj
    exact hj ▸ hx c hc
  · exact h j c hc (by assumption)

theorem State.everyCallout_setSlot_some {k : SlotIdx} {c : Callout} (h : s.otherCallouts k P) (hc : P k c) :
    (s.setSlot k (some c)).everyCallout P :=
  State.everyCallout_setSlot h fun _ hx => Option.mem_some_iff.1 hx ▸ hc

theorem State.everyCallout_free (k : SlotIdx) (h : s.otherCallouts k P) (c : Callout) (why : FreedReason) :
    (s.free k c why).everyCallout P :=
  (State.everyCallout_of_noticed (State.noticed_raiseNotice _ _ _)).2
    (State.everyCallout_setSlot h fun _ hx => by cases hx)

/-- Writing back replaces one slot (R100, R101). -/
theorem State.everyCallout_settle {k : SlotIdx} {c : Callout} (h : s.otherCallouts k P) (hc : P k c) :
    (s.settle k c).everyCallout P :=
  (State.everyCallout_of_slots (s := s.setSlot k (some c)) (s.settle_frame k c).2).2 (State.everyCallout_setSlot_some h hc)

theorem State.otherCallouts_settle {k : SlotIdx} (h : s.otherCallouts k P) (c : Callout) :
    (s.settle k c).otherCallouts k P :=
  State.everyCallout_settle (h.others k) fun different => absurd rfl different

/-- The stop of the channel empties the queues of Departed callouts and frees the Standing down ones (R58). -/
theorem State.everyCallout_stopSlots (h : s.everyCallout P)
    (emptied : ∀ k c, P k c → c.lifecycle = .departed → P k { c with queue := [] }) : s.stopSlots.everyCallout P := by
  intro k d hd
  have stopped := s.stopSlots_effect.2 k
  generalize s.stopSlots = u at stopped hd
  rw [stopped] at hd
  obtain ⟨c, hc, hd⟩ := Option.bind_eq_some_iff.1 hd
  split at hd
  · cases hd; exact h k _ hc
  · cases hd; exact emptied k _ (h k _ hc) (by assumption)
  · cases hd

/-! ### A step's start -/

/-- A callout renumbered by `n` serials, at a step, in a lifecycle (R41, R49). -/
def Callout.renumbered (c : Callout) (n : Nat) (step : StepIdx) (lifecycle : Lifecycle) : Callout :=
  { c with serial := c.serial + BitVec.ofNat 8 n, step := step, lifecycle := lifecycle }

theorem Callout.renumbered_renumbered (c : Callout) (n m : Nat) (i j : StepIdx) (l l' : Lifecycle) :
    (c.renumbered n i l).renumbered m j l' = c.renumbered (n + m) j l' := by
  simp [Callout.renumbered, BitVec.ofNat_add, BitVec.add_assoc]

theorem Callout.bumped_eq_renumbered (c : Callout) : c.bumped = c.renumbered 1 c.step c.lifecycle := rfl

/-- A step's start ends in one of two ways: the plan has no further step, or the action of one of its steps is taken. The serial has
advanced once for each step that began (R41, R49). -/
theorem State.startSteps_cases (s : State) (k : SlotIdx) (steps : List PlanStep) (i : Nat) (c : Callout) :
    ∃ n step l, 1 ≤ n ∧ n ≤ steps.length + 1 ∧
      (s.startSteps k steps i c = s.exhaust k (c.renumbered n step l) ∨
        ∃ j a cond hold reps, steps[j]? = some (.act a cond hold reps) ∧ step = Fin.ofNat 8 (i + j) ∧
          s.startSteps k steps i c = s.takeAction k (c.renumbered n step l) ⟨.queued, reps, a.rate⟩ a hold) := by
  induction steps generalizing i c with
  | nil => exact ⟨1, c.step, c.lifecycle, by omega, by simp, .inl rfl⟩
  | cons x rest ih =>
    cases x with
    | finish => exact ⟨1, Fin.ofNat 8 i, c.lifecycle, by omega, by simp, .inl rfl⟩
    | act a cond hold reps =>
      by_cases hc : cond.holds c.crew.status = true
      · refine ⟨1, Fin.ofNat 8 i, c.lifecycle, by omega, by simp, .inr ⟨0, a, cond, hold, reps, rfl, rfl, ?_⟩⟩
        exact if_pos hc
      · obtain ⟨n, step, l, hn, hl, h⟩ :=
          ih (i + 1) (c.renumbered 1 (Fin.ofNat 8 i) (.active ⟨.queued, reps, a.rate⟩))
        have passed : s.startSteps k (.act a cond hold reps :: rest) i c =
            s.startSteps k rest (i + 1) (c.renumbered 1 (Fin.ofNat 8 i) (.active ⟨.queued, reps, a.rate⟩)) := if_neg hc
        refine ⟨1 + n, step, l, by omega, by simp only [List.length_cons]; omega, ?_⟩
        rw [passed]
        rcases h with h | ⟨j, a', cond', hold', reps', hj, hst, h⟩
        · exact .inl (by rw [h, Callout.renumbered_renumbered])
        · refine .inr ⟨j + 1, a', cond', hold', reps', by simpa using hj, by rw [hst]; congr 1; omega, ?_⟩
          rw [h, Callout.renumbered_renumbered]

/-- The callout that an action leaves in its slot (R41 items 6 and 7, R48). -/
def State.acted (s : State) (c : Callout) (run : ActiveRun) (a : Action) (hold : Nat) : Callout :=
  let acted := s.act c (run.rate.getD .half) a
  (acted.2.enqueue acted.1).withRun { run with progress := if acted.1.isEmpty then c.heldFor hold else .queued }

theorem State.takeAction_eq (s : State) (k : SlotIdx) (c : Callout) (run : ActiveRun) (a : Action) (hold : Nat) :
    s.takeAction k c run a hold = (s.raiseAid c a).setSlot k (some (s.acted c run a hold)) := rfl

/-- An action leaves number, serial, plan and step of its callout (R42 to R45). -/
theorem State.acted_same (s : State) (c : Callout) (run : ActiveRun) (a : Action) (hold : Nat) :
    (s.acted c run a hold).number = c.number ∧ (s.acted c run a hold).serial = c.serial ∧
      (s.acted c run a hold).plan = c.plan ∧ (s.acted c run a hold).step = c.step := by
  cases a <;> exact ⟨rfl, rfl, rfl, rfl⟩

theorem State.acted_lifecycle (s : State) (c : Callout) (run : ActiveRun) (a : Action) (hold : Nat) :
    (s.acted c run a hold).lifecycle = .active { run with
      progress := if (s.act c (run.rate.getD .half) a).1.isEmpty then c.heldFor hold else .queued } := rfl

/-- An action taken, and a plan exhausted, replace one slot. -/
theorem State.everyCallout_takeAction {k : SlotIdx} {c : Callout} {run : ActiveRun} {a : Action} {hold : Nat}
    (h : s.otherCallouts k P) (hc : P k (s.acted c run a hold)) : (s.takeAction k c run a hold).everyCallout P :=
  State.everyCallout_setSlot_some ((State.otherCallouts_of_noticed (s.noticed_raiseAid c a)).2 h) hc

theorem State.everyCallout_exhaust {k : SlotIdx} {c : Callout} (h : s.otherCallouts k P)
    (hc : P k (c.withRun ⟨.exhausted, 0, none⟩)) : (s.exhaust k c).everyCallout P := by
  obtain ⟨u, hu, he⟩ := s.exhaust_effect k c
  exact he ▸ State.everyCallout_setSlot_some ((State.otherCallouts_of_noticed hu).2 h) hc

/-- Every callout after a step's start: the others, and the one whose step has started. -/
theorem State.everyCallout_startStep {k : SlotIdx} {i : Nat} {c : Callout} (h : s.otherCallouts k P)
    (exhausted : ∀ n step l, 1 ≤ n → n ≤ 9 → P k ((c.renumbered n step l).withRun ⟨.exhausted, 0, none⟩))
    (started : ∀ n (j : StepIdx) l a cond hold reps, 1 ≤ n → n ≤ 9 → s.plans[c.plan].steps[j] = .act a cond hold reps →
      P k (s.acted (c.renumbered n j l) ⟨.queued, reps, a.rate⟩ a hold)) :
    (s.startStep k i c).everyCallout P := by
  unfold State.startStep
  generalize hsteps : s.plans[c.plan].steps.toList.drop i = steps
  have short : steps.length ≤ 8 := by rw [← hsteps]; simp
  obtain ⟨n, step, l, hn, hl, h' | ⟨j, a, cond, hold, reps, hj, hst, h'⟩⟩ := s.startSteps_cases k steps i c
  · exact h' ▸ State.everyCallout_exhaust h (exhausted n step l hn (by omega))
  · rw [h']
    refine State.everyCallout_takeAction h (started n step l a cond hold reps hn (by omega) ?_)
    rw [← hsteps, List.getElem?_drop] at hj
    obtain ⟨hlt, hget⟩ := List.getElem?_eq_some_iff.1 hj
    have hlt : i + j < 8 := by simpa using hlt
    have hval : step.val = i + j := by rw [hst]; exact Nat.mod_eq_of_lt hlt
    have : s.plans[c.plan].steps[step] = s.plans[c.plan].steps.toList[i + j] := by
      simp [hval]
    rw [this, hget]

end Sys2Proof.Machine
end

section
/-! PROOF. The field ranges (R22, R24, R26, R33, R63) are kept by every step. -/

namespace Sys2Proof.Machine

open Sys2Proof

variable {short : Prop}

/-! ### The stores -/

/-- The plans, default ETAs and ETAs of replies on their way are in range. -/
def State.storesInRange (s : State) : Prop :=
  s.plansInRange ∧ (∀ m : MemberIdx, (s.member m).defaultEta ≤ 30) ∧ ∀ h ∈ s.handOffs, ∀ n ∈ h.eta, n ≤ 30

/-- One plan's fields are within their ranges, and if it is runnable its template is written (R22, R24, R27 check 7). -/
def Plan.inRange (x : Plan) : Prop :=
  x.template.inRange ∧ (∀ j : StepIdx, x.steps[j].inRange) ∧ (x.runnable = true → x.template.written = true)

theorem State.plansInRange_iff (s : State) : s.plansInRange ↔ ∀ i : PlanIdx, s.plans[i].inRange := Iff.rfl

theorem Plan.inRange_cleared : Plan.cleared.inRange := by
  have finish : ∀ j : StepIdx, Plan.cleared.steps[j] = .finish := fun j => Vector.getElem_replicate _
  refine ⟨.inl rfl, fun j => ?_, fun h => ?_⟩
  · rw [finish j]; trivial
  · simp [Plan.runnable, Plan.cleared] at h

/-- The range of a plan reads its template and its steps alone. -/
theorem Plan.inRange_congr {x y : Plan} (h : y.template = x.template ∧ y.steps = x.steps) (hx : x.inRange) : y.inRange := by
  obtain ⟨template, steps⟩ := h
  simpa only [Plan.inRange, Plan.runnable, template, steps] using hx

/-- A plan as a plan write stores it is in range (R23, R27, R28). -/
theorem Plan.Written.inRange {x y : Plan} (h : x.Written y) (hx : x.inRange) : y.inRange := by
  obtain ⟨template, steps, runnable⟩ := hx
  cases h with
  | step j z inRange first =>
    refine ⟨template, fun i => ?_, fun hr => ?_⟩
    · by_cases hij : j.val = i.val
      · simpa [hij] using inRange
      · simpa [Vector.getElem_set_ne _ _ hij] using steps i
    · by_cases hj : j = 0
      · subst hj
        exact first rfl (by simpa [Plan.runnable] using hr)
      · refine runnable ?_
        have hj : j.val ≠ 0 := fun h => hj (Fin.ext h)
        simpa [Plan.runnable, Vector.getElem_set_ne _ _ hj] using hr
  | template z inRange written => exact ⟨inRange, steps, fun _ => written⟩

theorem State.storesInRange_of_kept {s t : State} (law : s.storesInRange) (h : s.storesKept t) : t.storesInRange := by
  obtain ⟨plans, etas, replies⟩ := law
  refine ⟨fun i => Plan.inRange_congr (h.plans i) (plans i), fun m => (h.roster m).2 ▸ etas m, ?_⟩
  rw [h.handOffs]
  exact replies

theorem State.StoresMoved.storesInRange {s t : State} (h : s.StoresMoved t) (law : s.storesInRange) : t.storesInRange := by
  obtain ⟨plans, etas, replies⟩ := law
  cases h with
  | kept kept => exact State.storesInRange_of_kept ⟨plans, etas, replies⟩ kept
  | member m x same free eta =>
    refine State.storesInRange_of_kept (s := s.setMember m x) ⟨plans, fun k => ?_, replies⟩ same
    by_cases hk : k = m
    · subst hk; rw [State.member_setMember_self]; exact eta
    · rw [State.member_setMember_other _ _ hk]; exact etas k
  | replies same limited =>
    obtain ⟨plans', etas', -⟩ := State.storesInRange_of_kept ⟨plans, etas, replies⟩ same
    exact ⟨plans', etas', fun h hh => (limited h hh).elim (replies h) id⟩
  | cleared roster plans' handOffs =>
    refine ⟨fun i => ?_, fun m => ?_, ?_⟩
    · rw [plans' i]; exact Plan.inRange_cleared
    · rw [roster m]; exact Nat.zero_le _
    · rcases handOffs with h | h <;> rw [h]
      · exact replies
      · exact fun _ hh => by cases hh

/-! ### One callout -/

/-- The fields of a callout that running its plan leaves alone, but for the paged members, are in range (R33, R45, R63). -/
def Callout.recordInRange (c : Callout) : Prop :=
  c.elapsed ≤ 4095 ∧ c.pagedMembers.Nodup ∧ ∀ e ∈ c.entries, e.inRange c.elapsed

/-- Every field of a callout is in range. -/
def Callout.inRange (c : Callout) : Prop := c.recordInRange ∧ c.runInRange

theorem State.fieldsInRange_iff (s : State) : s.fieldsInRange ↔ s.storesInRange ∧ s.everyCallout fun _ => Callout.inRange := by
  constructor
  · rintro ⟨plans, etas, callouts, replies⟩
    refine ⟨⟨plans, etas, replies⟩, fun k c hc => ?_⟩
    obtain ⟨elapsed, paged, run, entries⟩ := callouts k c hc
    exact ⟨⟨elapsed, paged, entries⟩, run⟩
  · rintro ⟨⟨plans, etas, replies⟩, callouts⟩
    refine ⟨plans, etas, fun k c hc => ?_, replies⟩
    obtain ⟨⟨elapsed, paged, entries⟩, run⟩ := callouts k c hc
    exact ⟨elapsed, paged, run, entries⟩

/-- A run is in range over a queue: repeats and deadline are, and a run that holds or is exhausted has nothing queued. -/
def ActiveRun.inRange (run : ActiveRun) (queue : List TxItem) : Prop :=
  run.repeatsLeft ≤ 3 ∧ (∀ d b, run.progress = .holding d b → 10 ≤ d ∧ d ≤ 4095 ∧ queue = []) ∧
    (run.progress = .exhausted → queue = [])

theorem Callout.runInRange_active {c : Callout} {run : ActiveRun} (h : c.lifecycle = .active run) :
    c.runInRange ↔ run.inRange c.queue := by
  obtain ⟨progress, repeats, rate⟩ := run
  simp only [Callout.runInRange, h, ActiveRun.inRange]
  cases progress <;> simp

theorem Callout.runInRange_departed {c : Callout} (h : c.lifecycle = .departed) : c.runInRange := by
  simp only [Callout.runInRange, h]

theorem Callout.runInRange_standingDown {c : Callout} {sent : Nat} (h : c.lifecycle = .standingDown sent) :
    c.runInRange ↔ sent ≤ 1 := by
  simp only [Callout.runInRange, h]

/-- The run's range reads the lifecycle, and the queue only for its being empty. -/
theorem Callout.runInRange_congr {c d : Callout} (lifecycle : d.lifecycle = c.lifecycle) (queue : c.queue = [] → d.queue = [])
    (h : c.runInRange) : d.runInRange := by
  cases hl : c.lifecycle with
  | active run =>
    obtain ⟨repeats, holding, exhausted⟩ := (Callout.runInRange_active hl).1 h
    refine (Callout.runInRange_active (lifecycle.trans hl)).2 ⟨repeats, fun x b hp => ?_, fun hp => queue (exhausted hp)⟩
    obtain ⟨low, high, empty⟩ := holding x b hp
    exact ⟨low, high, queue empty⟩
  | departed => exact Callout.runInRange_departed (lifecycle.trans hl)
  | standingDown sent => exact (Callout.runInRange_standingDown (lifecycle.trans hl)).2 ((Callout.runInRange_standingDown hl).1 h)

theorem Callout.withProgress_active {c : Callout} {run : ActiveRun} (h : c.lifecycle = .active run) (p : Progress) :
    c.withProgress p = c.withRun { run with progress := p } := by
  simp only [Callout.withProgress, h]

theorem Callout.withProgress_inactive {c : Callout} (h : c.isActive = false) (p : Progress) : c.withProgress p = c := by
  cases hl : c.lifecycle <;> simp_all [Callout.withProgress, Callout.isActive]

theorem Callout.isActive_iff {c : Callout} : c.isActive = true ↔ ∃ run, c.lifecycle = .active run := by
  cases hl : c.lifecycle <;> simp [Callout.isActive, hl]

/-- An Active callout whose progress moves to Queued or Alerting is in range with any queue. -/
theorem Callout.inRange_moving {c : Callout} {run : ActiveRun} {p : Progress} (record : c.recordInRange)
    (repeats : run.repeatsLeft ≤ 3) (moving : p = .queued ∨ p = .alerting) :
    (c.withRun { run with progress := p }).inRange := by
  refine ⟨record, (Callout.runInRange_active (run := { run with progress := p }) rfl).2 ⟨repeats, ?_, ?_⟩⟩
  · rcases moving with rfl | rfl <;> exact fun _ _ h => by cases h
  · rcases moving with rfl | rfl <;> exact fun h => by cases h

theorem Callout.inRange_putBack {c : Callout} (i : TxItem) (h : c.inRange) : (c.putBack i).inRange := by
  obtain ⟨record, run⟩ := h
  unfold Callout.putBack
  generalize hd : ({ c with queue := i :: c.queue } : Callout) = d
  have lifecycle : d.lifecycle = c.lifecycle := by rw [← hd]
  have record : d.recordInRange := by rw [← hd]; exact record
  cases hl : c.lifecycle with
  | active r =>
    rw [Callout.withProgress_active (lifecycle.trans hl)]
    exact Callout.inRange_moving record ((Callout.runInRange_active hl).1 run).1 (.inl rfl)
  | departed =>
    rw [Callout.withProgress_inactive (by simp only [Callout.isActive, lifecycle, hl])]
    exact ⟨record, Callout.runInRange_departed (lifecycle.trans hl)⟩
  | standingDown sent =>
    rw [Callout.withProgress_inactive (by simp only [Callout.isActive, lifecycle, hl])]
    exact ⟨record, (Callout.runInRange_standingDown (lifecycle.trans hl)).2 ((Callout.runInRange_standingDown hl).1 run)⟩

theorem Callout.inRange_emptied {c : Callout} (h : c.inRange) : ({ c with queue := [] } : Callout).inRange :=
  ⟨h.1, Callout.runInRange_congr (c := c) rfl (fun _ => rfl) h.2⟩

/-- An entry in range at one time is in range later. -/
theorem Entry.inRange_later {e : Entry} {t u : Nat} (h : e.inRange t) (later : t ≤ u) : e.inRange u := by
  obtain ⟨first, latest, eta, estimate, candidate⟩ := h
  exact ⟨first, latest.trans later, eta, estimate, candidate⟩

theorem Callout.inRange_ticked {c : Callout} (h : c.inRange) : c.ticked.inRange := by
  obtain ⟨⟨elapsed, paged, entries⟩, run⟩ := h
  have later : c.elapsed ≤ saturate Config.elapsedMax (c.elapsed + 1) := by
    simp only [saturate, Config.elapsedMax]; omega
  have record : ({ c with elapsed := saturate Config.elapsedMax (c.elapsed + 1) } : Callout).recordInRange :=
    ⟨Nat.min_le_left _ _, paged, fun e he => Entry.inRange_later (entries e he) later⟩
  unfold Callout.ticked
  split
  · rename_i deadline due repeats rate hl
    obtain ⟨reps, holding, -⟩ := (Callout.runInRange_active hl).1 run
    obtain ⟨low, high, empty⟩ := holding deadline due rfl
    refine ⟨record, (Callout.runInRange_active rfl).2 (?_ : ActiveRun.inRange ⟨.holding deadline _, repeats, rate⟩ c.queue)⟩
    refine ⟨reps, ?_, ?_⟩
    · intro d b hp; cases hp; exact ⟨low, high, empty⟩
    · intro hp; cases hp
  · exact ⟨record, Callout.runInRange_congr (c := c) rfl id run⟩

/-! ### Responder entries (R63, R75) -/

theorem State.recordInRange_evaluated (s : State) {c : Callout} (h : c.recordInRange) : (s.evaluated c).recordInRange := by
  obtain ⟨elapsed, paged, entries⟩ := h
  refine ⟨elapsed, paged, fun e he => ?_⟩
  obtain ⟨x, hx, rfl⟩ := List.mem_map.1 he
  exact entries x hx

theorem State.inRange_evaluated (s : State) {c : Callout} (h : c.inRange) : (s.evaluated c).inRange :=
  ⟨s.recordInRange_evaluated h.1, Callout.runInRange_congr (c := c) rfl id h.2⟩

/-- A new entry is in range at the time it is set, with an ETA of at most 30 minutes (R75, R89, R90). -/
theorem newEntry_inRange {r : Reply} {a : Answer} {mark : Bool} {defaultEta t first : Nat} {seat : Seat}
    (eta : ∀ n ∈ r.eta, n ≤ 30) (started : first ≤ t) (short : t ≤ 4095) :
    (newEntry r a mark defaultEta t first seat).inRange t := by
  refine ⟨started, le_rfl, fun n hn => ?_, fun n hn => ?_, ?_⟩
  · by_cases ha : a = .attending
    · exact ⟨eta n (by simpa [newEntry, etaOf, ha] using hn), ha⟩
    · simp [newEntry, etaOf, ha] at hn
  · cases a <;> simp only [newEntry, estimateOf, Option.mem_def, Option.some.injEq, reduceCtorEq] at hn
    · exact hn ▸ Nat.min_le_left _ _
    · exact hn ▸ short
  · cases a <;> rfl

/-- The entries of a callout with a reply recorded are in range (R75, R77, R78). -/
theorem Callout.recordInRange_recordIn {c : Callout} {r : Reply} (a : Answer) (mark : Bool) (defaultEta : Nat) (room : Room)
    (h : c.recordInRange) (eta : ∀ n ∈ r.eta, n ≤ 30) :
    ({ c with entries := recordIn c r a mark defaultEta room } : Callout).recordInRange := by
  obtain ⟨elapsed, paged, entries⟩ := h
  refine ⟨elapsed, paged, fun e he => ?_⟩
  have appended : ∀ l : List Entry, (∀ x ∈ l, x.inRange c.elapsed) →
      e ∈ appendEntry l r a mark defaultEta c.elapsed → e.inRange c.elapsed := by
    intro l hl he
    rcases List.mem_append.1 he with he | he
    · exact hl e he
    · exact List.mem_singleton.1 he ▸ newEntry_inRange eta le_rfl elapsed
  cases room with
  | update =>
    obtain ⟨x, hx, rfl⟩ := List.mem_map.1 he
    have old := entries x hx
    split
    · exact newEntry_inRange eta (old.1.trans old.2.1) elapsed
    · exact old
  | append => exact appended _ entries he
  | evict => exact appended _ (fun x hx => entries x (List.mem_of_mem_eraseP hx)) he
  | noRoom => exact entries e he

theorem Callout.recordInRange_withdrawEntry {c : Callout} (m : MemberIdx) (h : c.recordInRange) :
    ({ c with entries := withdrawEntry c.entries m } : Callout).recordInRange := by
  obtain ⟨elapsed, paged, entries⟩ := h
  refine ⟨elapsed, paged, fun e he => ?_⟩
  obtain ⟨x, hx, rfl⟩ := List.mem_map.1 he
  obtain ⟨first, latest, eta, estimate, candidate⟩ := entries x hx
  split
  · exact ⟨first, latest, fun _ h => (by cases h), fun _ h => (by cases h), rfl⟩
  · exact ⟨first, latest, eta, estimate, candidate⟩

end Sys2Proof.Machine
end

section
/-! PROOF. What the plan point and the returns leave in the slots: the turns of the callouts, and the items put back. -/

namespace Sys2Proof.Machine

open Sys2Proof

variable {s : State} {P : SlotIdx → Callout → Prop}

/-- A turn takes items from the head of the queue and leaves the rest (R116). -/
theorem takeTurn_append (budget : Nat) (stood : Bool) (l : List TxItem) :
    (takeTurn budget stood l).1 ++ (takeTurn budget stood l).2 = l := by
  induction l generalizing budget stood with
  | nil => rfl
  | cons i rest ih =>
    unfold takeTurn
    split
    · exact congrArg (i :: ·) (ih _ _)
    · rfl

/-- The turn of a callout within a budget. -/
def turnOf (budget : Nat) (k : SlotIdx) (c : Callout) : Turn :=
  ⟨k, { c with queue := (takeTurn budget false c.queue).2 }, (takeTurn budget false c.queue).1⟩

/-- Every turn is that of a waiting callout within some budget (R116). -/
theorem mem_planTurns {budget : Nat} {l : List (SlotIdx × Callout)} {t : Turn} (h : t ∈ planTurns budget l) :
    ∃ b k c, (k, c) ∈ l ∧ t = turnOf b k c := by
  induction l generalizing budget with
  | nil => cases h
  | cons x rest ih =>
    obtain ⟨k, c⟩ := x
    rcases List.mem_cons.1 h with rfl | h
    · exact ⟨budget, k, c, List.mem_cons_self, rfl⟩
    · obtain ⟨b, j, d, hm, ht⟩ := ih h
      exact ⟨b, j, d, List.mem_cons_of_mem _ hm, ht⟩

/-- A waiting callout stands in its slot with something in its queue (R116). -/
theorem State.mem_waiting {k : SlotIdx} {c : Callout} : (k, c) ∈ s.waiting ↔ s.slots[k] = some c ∧ c.queue ≠ [] := by
  unfold State.waiting
  rw [mem_sortBy, List.mem_filterMap]
  constructor
  · rintro ⟨j, -, hj⟩
    split at hj
    · rename_i d hd
      split at hj
      · cases hj
      · rename_i hq
        cases hj
        exact ⟨hd, by simpa using hq⟩
    · cases hj
  · rintro ⟨hk, hq⟩
    exact ⟨k, by simp [allSlots], by simp [hk, hq]⟩

/-- Every callout after a plan point's turns (R114, R116). -/
theorem State.everyCallout_buildPlan (h : s.everyCallout P)
    (turn : ∀ b k c, s.slots[k] = some c → P k (turnOf b k c).left) : s.buildPlan.everyCallout P := by
  have all : ∀ (l : List Turn) (u : State), u.everyCallout P → (∀ t ∈ l, P t.slot t.left) →
      (l.foldl (fun s t => s.setSlot t.slot (some t.left)) u).everyCallout P := by
    intro l
    induction l with
    | nil => exact fun _ hu _ => hu
    | cons t rest ih =>
      intro u hu hl
      exact ih _ (State.everyCallout_setSlot_some (hu.others _) (hl t List.mem_cons_self)) fun x hx => hl x (List.mem_cons_of_mem _ hx)
  refine all (planTurns Config.outboundBudget s.waiting) s h fun t ht => ?_
  obtain ⟨b, k, c, hm, rfl⟩ := mem_planTurns ht
  exact turn b k c (State.mem_waiting.1 hm).1

/-- Every callout after the return of the items still to be sent (R126). -/
theorem State.everyCallout_returnUnsent (h : s.everyCallout P) (back : ∀ k c i, P k c → P k (c.putBack i)) :
    s.returnUnsent.everyCallout P := by
  have item : ∀ (u : State) (i : TxItem), u.everyCallout P → (State.returnItem i u).everyCallout P := by
    intro u i hu
    rcases u.returnItem_effect i with he | ⟨k, c, hl, -, he⟩ <;> rw [he]
    · exact hu
    · exact State.everyCallout_setSlot_some (hu.others k) (back k c i (hu k c (State.lookup_some hl).1))
  have all : ∀ l : List PlannedItem, (l.foldr (fun e s => State.returnItem e.item s) s).everyCallout P := by
    intro l
    induction l with
    | nil => exact h
    | cons e rest ih => exact item _ e.item ih
  exact all s.unsent

end Sys2Proof.Machine
end

section
/-! PROOF. The field ranges are kept by every step: the callouts. -/

namespace Sys2Proof.Machine

open Sys2Proof

variable {short : Prop} {s t : State}

/-- An action taken for a callout with nothing queued leaves it in range (R41, R45). -/
theorem State.inRange_acted (s : State) {c : Callout} {run : ActiveRun} (a : Action) {hold : Nat} (record : c.recordInRange)
    (empty : c.queue = []) (repeats : run.repeatsLeft ≤ 3) (holds : 10 ≤ hold) : (s.acted c run a hold).inRange := by
  have record' : (s.act c (run.rate.getD .half) a).2.recordInRange := by
    obtain ⟨elapsed, paged, entries⟩ := record
    cases a with
    | shortfallPage n => exact ⟨elapsed, (foldl_insertNew _ _).1 paged, entries⟩
    | groupPage | toneCall | aidRequest => exact ⟨elapsed, paged, entries⟩
  have queue : (s.act c (run.rate.getD .half) a).1 = [] → (s.acted c run a hold).queue = [] := by
    intro none
    have kept : (s.act c (run.rate.getD .half) a).2.queue = c.queue := by cases a <;> rfl
    simp [State.acted, Callout.withRun, Callout.enqueue, none, kept, empty]
  refine ⟨record', (Callout.runInRange_active (s.acted_lifecycle c run a hold)).2
    ⟨repeats, fun d b hp => ?_, fun hp => ?_⟩⟩
  · by_cases none : (s.act c (run.rate.getD .half) a).1 = []
    · simp only [none, List.isEmpty_nil, if_true, Callout.heldFor, Progress.holding.injEq] at hp
      obtain ⟨rfl, -⟩ := hp
      refine ⟨?_, Nat.min_le_left _ _, queue none⟩
      simp only [saturate, Config.elapsedMax]; omega
    · simp [none] at hp
  · by_cases none : (s.act c (run.rate.getD .half) a).1 = []
    · exact queue none
    · simp [none] at hp

/-- A callout with nothing queued that has exhausted its plan is in range (R41). -/
theorem Callout.inRange_exhausted {c : Callout} (record : c.recordInRange) (empty : c.queue = []) :
    (c.withRun ⟨.exhausted, 0, none⟩).inRange :=
  ⟨record, (Callout.runInRange_active rfl).2 ⟨Nat.zero_le _, fun _ _ h => (by cases h), fun _ => empty⟩⟩

/-- The start of a step of a plan in range, for a callout with nothing queued, leaves every callout in range (R41). -/
theorem State.inRange_startStep (plans : s.plansInRange) (h : s.everyCallout fun _ => Callout.inRange) {k : SlotIdx} (i : Nat)
    {c : Callout} (record : c.recordInRange) (empty : c.queue = []) :
    (s.startStep k i c).everyCallout fun _ => Callout.inRange := by
  refine State.everyCallout_startStep (h.others k) (fun n step l _ _ => Callout.inRange_exhausted record empty)
    fun n j l a cond hold reps _ _ hj => ?_
  obtain ⟨-, steps, -⟩ := plans c.plan
  have inRange := steps j
  rw [hj] at inRange
  obtain ⟨-, low, -, repeats⟩ := inRange
  exact s.inRange_acted a record empty repeats low

theorem State.inRange_expireHold (plans : s.plansInRange) (h : s.everyCallout fun _ => Callout.inRange) {k : SlotIdx} {c : Callout}
    {deadline repeats : Nat} {due : Bool} {rate : Option CodeRate} (held : s.slots[k] = some c)
    (run : c.lifecycle = .active ⟨.holding deadline due, repeats, rate⟩) :
    (s.expireHold k c ⟨.holding deadline due, repeats, rate⟩).everyCallout fun _ => Callout.inRange := by
  obtain ⟨record, range⟩ := h k c held
  obtain ⟨reps, holding, -⟩ := (Callout.runInRange_active run).1 range
  obtain ⟨-, -, empty⟩ := holding deadline due rfl
  unfold State.expireHold
  split
  · rename_i a cond hold _ hstep
    obtain ⟨-, steps, -⟩ := plans c.plan
    have inRange := steps c.step
    rw [hstep] at inRange
    split
    · exact State.everyCallout_takeAction (h.others k)
        (s.inRange_acted (c := c.bumped) a record empty ((Nat.sub_le _ _).trans reps) inRange.2.1)
    · exact State.inRange_startStep plans h _ record empty
  · exact State.inRange_startStep plans h _ record empty

/-- A new callout's record is in range (R40). -/
theorem State.recordInRange_newCallout (s : State) (p : Port) (reference : Quad) (i : PlanIdx) (priority : BitVec 3)
    (cls : Byte) (location : BitVec 18) : (s.newCallout p reference i priority cls location).recordInRange :=
  ⟨Nat.zero_le _, List.nodup_nil, fun _ h => by cases h⟩

theorem State.plansInRange_of_kept (plans : s.plansInRange) (h : s.storesKept t) : t.plansInRange :=
  fun i => Plan.inRange_congr (h.plans i) (plans i)

/-- The operations that renumber a callout leave every callout in range. -/
theorem State.SerialOp.callouts {t : State} (op : s.SerialOp t) (plans : s.plansInRange)
    (h : s.everyCallout fun _ => Callout.inRange) : t.everyCallout fun _ => Callout.inRange := by
  cases op with
  | allocate p reference i priority cls location k free =>
    have record := s.recordInRange_newCallout p reference i priority cls location
    unfold State.allocate
    refine State.inRange_startStep (State.plansInRange_of_kept plans ?_) ?_ 0 record rfl
    · exact State.storesKept_trans (State.storesKept_takeUpPlan s i) (State.storesKept_of_eq rfl rfl rfl)
    · refine (State.everyCallout_of_noticed (State.noticed_raiseNotice _ _ _)).2 (State.everyCallout_setSlot_some ?_ ?_)
      · exact State.everyCallout.others h k
      · exact ⟨record, (Callout.runInRange_active rfl).2 ⟨Nat.zero_le _, fun _ _ h => (by cases h), fun h => (by cases h)⟩⟩
  | escalate k c i held active =>
    unfold State.escalateTo
    dsimp only
    have changed := s.storesKept_changePlan c i
    have others : (if i = c.plan then s else (s.leavePlan c.plan).takeUpPlan i).everyCallout fun _ => Callout.inRange := by
      split <;> exact h
    generalize (if i = c.plan then s else (s.leavePlan c.plan).takeUpPlan i) = u at changed others
    have range : ({ c.bumped with queue := [], plan := i } : Callout).inRange := Callout.inRange_emptied (h k c held)
    have record := u.inRange_evaluated range
    have told := State.noticed_raiseCrewStatus (u.settle k (u.evaluated { c.bumped with queue := [], plan := i })) c.crew
      (u.evaluated { c.bumped with queue := [], plan := i })
    refine State.inRange_startStep (State.plansInRange_of_kept plans ?_) ?_ 0 record.1 rfl
    · exact State.storesKept_trans changed (State.storesKept_trans (State.storesKept_settle _ _ _) told.storesKept)
    · exact (State.everyCallout_of_noticed told).2 (State.everyCallout_settle (others.others k) record)
  | cancel k c held =>
    unfold State.cancelCallout
    dsimp only
    split
    · refine State.everyCallout_setSlot_some (State.everyCallout.others h k) ⟨(h k c held).1, ?_⟩
      exact (Callout.runInRange_standingDown (sent := 0) rfl).2 (Nat.zero_le _)
    · exact State.everyCallout_free k (State.everyCallout.others h k) c .cancelled
  | depart k c held =>
    unfold State.depart
    dsimp only
    refine (State.everyCallout_of_noticed (State.noticed_raiseNotice _ _ _)).2 (State.everyCallout_setSlot_some (State.everyCallout.others h k) ?_)
    exact ⟨(h k c held).1, Callout.runInRange_departed rfl⟩
  | expire k c repeats deadline rate due held run => exact State.inRange_expireHold plans h held run

/-- A matched completion leaves an Active callout in range: still sending, holding with nothing queued, or Queued (R47). -/
theorem State.inRange_advance (plans : s.plansInRange) {c : Callout} {run : ActiveRun} (active : c.lifecycle = .active run)
    (h : c.inRange) : (s.advance c).inRange := by
  obtain ⟨record, range⟩ := h
  obtain ⟨repeats, -, -⟩ := (Callout.runInRange_active active).1 range
  unfold State.advance
  split
  · exact ⟨record, range⟩
  · split
    · rename_i empty
      split
      · rename_i hold hh
        have low : 10 ≤ hold := by
          unfold State.holdOf at hh
          split at hh
          · rename_i hstep
            cases hh
            obtain ⟨-, steps, -⟩ := plans c.plan
            have inRange := steps c.step
            rw [hstep] at inRange
            exact inRange.2.1
          · cases hh
        rw [Callout.withProgress_active active]
        refine ⟨record, (Callout.runInRange_active (run := { run with progress := c.heldFor hold }) rfl).2
          ⟨repeats, fun d b hp => ?_, fun hp => by cases hp⟩⟩
        simp only [Callout.heldFor, Progress.holding.injEq] at hp
        obtain ⟨rfl, -⟩ := hp
        refine ⟨?_, Nat.min_le_left _ _, List.isEmpty_iff.1 empty⟩
        simp only [saturate, Config.elapsedMax]; omega
      · exact ⟨record, range⟩
    · rw [Callout.withProgress_active active]
      exact Callout.inRange_moving record repeats (.inl rfl)

theorem State.inRange_matchCompletion (plans : s.plansInRange) (h : s.everyCallout fun _ => Callout.inRange) (i : TxItem) :
    (s.matchCompletion i).everyCallout fun _ => Callout.inRange := by
  unfold State.matchCompletion
  split
  · exact h
  · rename_i k c hl
    have range := h k c (State.lookup_some hl).1
    split
    · split
      · rename_i run active
        split
        · exact State.everyCallout_setSlot_some (h.others k) (State.inRange_advance plans active range)
        · exact h
      · rename_i sent standing
        have sentOnce := (Callout.runInRange_standingDown standing).1 range.2
        split
        · split
          · exact State.everyCallout_free k (h.others k) c _
          · refine State.everyCallout_setSlot_some (h.others k) ⟨range.1, ?_⟩
            exact (Callout.runInRange_standingDown (sent := sent + 1) rfl).2 (by omega)
        · exact h
      · exact h
    · exact h

/-- A turn leaves its callout in range: what a callout with nothing queued holds stays, a Queued callout becomes Alerting (R47). -/
theorem Callout.inRange_turn {c : Callout} (h : c.inRange) (b : Nat) (k : SlotIdx) : (turnOf b k c).left.inRange := by
  have emptier : c.queue = [] → (takeTurn b false c.queue).2 = [] := fun he => by rw [he]; rfl
  have waiting : (turnOf b k c).callout.inRange := ⟨h.1, Callout.runInRange_congr (c := c) rfl emptier h.2⟩
  unfold Turn.left
  split
  · exact waiting
  · split
    · rename_i run active
      split
      · rw [Callout.withProgress_active active]
        exact Callout.inRange_moving waiting.1 ((Callout.runInRange_active active).1 waiting.2).1 (.inr rfl)
      · exact waiting
    · exact waiting

/-- The operations of the tables leave every callout in range. -/
theorem State.TableOp.callouts (op : s.TableOp True t) (plans : s.plansInRange) (h : s.everyCallout fun _ => Callout.inRange) :
    t.everyCallout fun _ => Callout.inRange := by
  cases op with
  | quiet same => exact (State.everyCallout_of_slots same.slots).2 h
  | tellMember | writeMember | dropHandOff | send => exact h
  | merge p k c priority held =>
    refine (State.everyCallout_of_noticed (State.noticed_raiseNotice _ _ _)).2 (State.everyCallout_setSlot_some (h.others k) ?_)
    exact ⟨(h k c held).1, Callout.runInRange_congr (c := c) rfl id (h k c held).2⟩
  | release k c => exact State.everyCallout_free (s := s.disengage _) k (State.everyCallout.others h k) c .released
  | record k c r a mark room held eta =>
    obtain ⟨record, run⟩ := h k c held
    refine (State.everyCallout_of_noticed (s.record_effect k c r a mark room)).2 (State.everyCallout_settle ?_ ?_)
    · refine State.everyCallout.others ?_ k
      exact (State.everyCallout_of_slots (congrArg State.slots (s.engageReply_frame c.number r.member a mark).1)).2 h
    · exact s.inRange_evaluated
        ⟨Callout.recordInRange_recordIn a mark _ room record (eta trivial), Callout.runInRange_congr (c := c) rfl id run⟩
  | withdraw k d r held =>
    obtain ⟨record, run⟩ := h k d held
    refine (State.everyCallout_of_noticed (s.withdraw_effect k d r)).2 (State.everyCallout_settle (s := s.engage r.member .free) (State.everyCallout.others h k) ?_)
    exact State.inRange_evaluated _
      ⟨Callout.recordInRange_withdrawEntry r.member record, Callout.runInRange_congr (c := d) rfl id run⟩
  | handOn m a eta tag =>
    unfold State.handOn
    split <;> exact h
  | tick =>
    intro k c hc
    simp only [Fin.getElem_fin, Vector.getElem_map, Option.mem_def, Option.map_eq_some_iff] at hc
    obtain ⟨d, hd, rfl⟩ := hc
    exact Callout.inRange_ticked (h k d hd)
  | returnUnsent => exact State.everyCallout_returnUnsent h fun _ c i hc => Callout.inRange_putBack i hc
  | stopSlots => exact State.everyCallout_stopSlots h fun _ c hc _ => Callout.inRange_emptied hc
  | complete e => exact State.inRange_matchCompletion (s := { s.markItem e .sent with tx := _ }) plans h e.item
  | clear roster plans slots =>
    intro k c hc
    rw [slots k] at hc
    cases hc

/-! ### The law -/

theorem State.TableOp.fieldsInRange (op : s.TableOp True t) (law : s.fieldsInRange) : t.fieldsInRange := by
  obtain ⟨stores, callouts⟩ := s.fieldsInRange_iff.1 law
  exact t.fieldsInRange_iff.2 ⟨op.stores.storesInRange stores, op.callouts stores.1 callouts⟩

theorem State.TableOps.fieldsInRange (ops : s.TableOps True t) (law : s.fieldsInRange) : t.fieldsInRange := by
  induction ops with
  | refl => exact law
  | tail _ op ih => exact op.fieldsInRange ih

theorem State.sameTables.fieldsInRange (same : s.sameTables t) (law : s.fieldsInRange) : t.fieldsInRange :=
  State.TableOp.fieldsInRange (.quiet same) law

theorem State.Moved.fieldsInRange (moved : s.Moved True t) (law : s.fieldsInRange) : t.fieldsInRange := by
  cases moved with
  | kept ops => exact ops.fieldsInRange law
  | planWritten i x unused written same =>
    refine same.fieldsInRange ?_
    obtain ⟨plans, etas, callouts, replies⟩ := law
    refine ⟨fun j => ?_, etas, callouts, replies⟩
    by_cases hj : j = i
    · subst hj; rw [State.plans_setPlan_self]; exact written.inRange (plans j)
    · rw [State.plans_setPlan_other _ _ hj]; exact plans j
  | planned same ops =>
    rename_i u
    obtain ⟨stores, callouts⟩ := u.fieldsInRange_iff.1 (same.fieldsInRange law)
    refine ops.fieldsInRange (u.buildPlan.fieldsInRange_iff.2 ⟨State.storesInRange_of_kept stores u.storesKept_buildPlan, ?_⟩)
    exact State.everyCallout_buildPlan callouts fun b k c hc => Callout.inRange_turn (callouts k c hc) b k
  | renumbered op same =>
    obtain ⟨stores, callouts⟩ := s.fieldsInRange_iff.1 law
    exact same.fieldsInRange ((State.fieldsInRange_iff _).2
      ⟨State.storesInRange_of_kept stores op.storesKept, op.callouts stores.1 callouts⟩)

theorem step_fieldsInRange (law : s.fieldsInRange) (h : step s = .next t) : t.fieldsInRange := by
  obtain ⟨u, same, moved⟩ := step_moved (short := True) s t (fun _ => law.2.2.2) h
  exact moved.fieldsInRange (same.fieldsInRange law)

end Sys2Proof.Machine
end

section
/-! PROOF. The law of the transmission queues and the code rates (R33, R41, R46, R49), callout by callout. -/

namespace Sys2Proof.Machine

open Sys2Proof

variable {s t : State}

/-! ### One callout -/

/-- Holding or Exhausted: nothing is left to send (R41, R47). -/
def ActiveRun.atRest (run : ActiveRun) : Prop := (∃ d b, run.progress = .holding d b) ∨ run.progress = .exhausted

/-- A run's rate is that of the step it entered last, `x`, and none once the plan is exhausted (R33, R41). -/
def ActiveRun.ratedBy (run : ActiveRun) (x : PlanStep) : Prop :=
  (run.progress = .exhausted → run.rate = none) ∧ (run.progress ≠ .exhausted → run.rate.isSome = x.pages)

/-- The queue and rate of a callout that has `flying` items on their way and entered step `x` last. -/
structure Callout.queueKept (c : Callout) (flying : Nat) (x : PlanStep) : Prop where
  own : ∀ i ∈ c.queue, i.callout = c.number ∧ i.serial = c.serial
  room : c.queue.length + flying ≤ 16
  rest : ∀ run, c.lifecycle = .active run → run.atRest → c.queue = [] ∧ flying = 0
  rate : ∀ run, c.lifecycle = .active run → run.ratedBy x

/-- The queue and rate of a callout in a state. -/
def State.keeps (s : State) (c : Callout) : Prop :=
  c.queueKept (s.inFlight c.number c.serial) s.plans[c.plan].steps[c.step]

/-- The queue and rate of every callout are kept. -/
def State.queuesKept (s : State) : Prop := s.everyCallout fun _ => s.keeps

theorem State.queuesKept_iff (s : State) : s.queuesKept ↔ s.queuesBounded16 ∧ s.ratesMatch := by
  constructor
  · refine fun h => ⟨fun k c hc => ⟨(h k c hc).own, (h k c hc).room, ?_⟩, fun k c hc => ?_⟩
    · have rest := (h k c hc).rest
      split
      · rename_i d b reps rate hl
        exact rest _ hl (.inl ⟨d, b, rfl⟩)
      · rename_i reps rate hl
        exact rest _ hl (.inr rfl)
      · trivial
    · have rate := (h k c hc).rate
      split
      · rename_i hl
        exact (rate _ hl).1 rfl
      · rename_i progress reps r other hl
        exact (rate _ hl).2 fun he => other (by simpa using he)
      · trivial
  · rintro ⟨bounded, rates⟩ k c hc
    obtain ⟨own, room, rest⟩ := bounded k c hc
    refine ⟨own, room, fun run hl hr => ?_, fun run hl => ?_⟩
    · obtain ⟨progress, reps, rate⟩ := run
      rw [hl] at rest
      rcases hr with ⟨d, b, rfl⟩ | rfl <;> exact rest
    · obtain ⟨progress, reps, rate⟩ := run
      have rates := rates k c hc
      rw [hl] at rates
      cases progress with
      | exhausted => exact ⟨fun _ => rates, fun h => absurd rfl h⟩
      | queued | alerting | holding => exact ⟨fun h => (by cases h), fun _ => rates⟩

variable {c : Callout} {flying : Nat} {x : PlanStep}

/-- Fewer items on their way leave the queue kept. -/
theorem Callout.queueKept.fewer {n : Nat} (h : c.queueKept flying x) (fewer : n ≤ flying) : c.queueKept n x :=
  ⟨h.own, (Nat.add_le_add_left fewer _).trans h.room,
    fun run hl hr => ⟨(h.rest run hl hr).1, Nat.le_zero.1 ((h.rest run hl hr).2 ▸ fewer)⟩, h.rate⟩

/-- With an item on its way an Active callout is not at rest. -/
theorem Callout.queueKept.not_atRest {run : ActiveRun} (h : c.queueKept flying x) (active : c.lifecycle = .active run)
    (some : 0 < flying) : ¬run.atRest :=
  fun rest => Nat.ne_of_gt some (h.rest run active rest).2

/-- A callout that is not Active keeps its queue with its own items and room. -/
theorem Callout.queueKept_inactive (inactive : c.isActive = false)
    (own : ∀ i ∈ c.queue, i.callout = c.number ∧ i.serial = c.serial) (room : c.queue.length + flying ≤ 16) :
    c.queueKept flying x := by
  have none : ∀ run, c.lifecycle ≠ .active run := fun run hl => by simp [Callout.isActive, hl] at inactive
  exact ⟨own, room, fun run hl => absurd hl (none run), fun run hl => absurd hl (none run)⟩

/-- The queue emptied. -/
theorem Callout.queueKept.emptied (h : c.queueKept flying x) : ({ c with queue := [] } : Callout).queueKept flying x :=
  ⟨fun _ hi => (by cases hi), (Nat.add_le_add_right (Nat.zero_le _) _).trans h.room,
    fun run hl hr => ⟨rfl, (h.rest run hl hr).2⟩, h.rate⟩

/-- A callout not at rest moves on to Queued or Alerting with its rate. -/
theorem Callout.queueKept.moving {run : ActiveRun} {p : Progress} (h : c.queueKept flying x)
    (active : c.lifecycle = .active run) (moves : ¬run.atRest) (p_moving : p = .queued ∨ p = .alerting) :
    (c.withRun { run with progress := p }).queueKept flying x := by
  have live : p ≠ .exhausted ∧ ∀ d b, p ≠ .holding d b := by rcases p_moving with rfl | rfl <;> simp
  refine ⟨h.own, h.room, fun run' hl hr => ?_, fun run' hl => ?_⟩ <;> cases hl
  · rcases hr with ⟨d, b, hp⟩ | hp
    · exact absurd hp (live.2 d b)
    · exact absurd hp live.1
  · exact ⟨fun hp => absurd hp live.1, fun _ => (h.rate run active).2 fun he => moves (.inr he)⟩

/-- A tick moves the time and the marks alone. -/
theorem Callout.queueKept.ticked (h : c.queueKept flying x) : c.ticked.queueKept flying x := by
  unfold Callout.ticked
  split
  · rename_i deadline due repeats rate hl
    refine ⟨h.own, h.room, fun run' hl' _ => h.rest _ hl (.inl ⟨deadline, due, rfl⟩), fun run' hl' => ?_⟩
    cases hl'
    exact ⟨fun hp => (by cases hp), fun _ => (h.rate _ hl).2 fun hp => by cases hp⟩
  · exact ⟨h.own, h.room, h.rest, h.rate⟩

/-- An item on its way taken back to the head of the queue (R126). -/
theorem Callout.queueKept.putBack {i : TxItem} (h : c.queueKept (flying + 1) x) (takes : c.takesBack i = true)
    (named : c.number = i.callout) : (c.putBack i).queueKept flying x := by
  have serial : c.serial = i.serial := by
    unfold Callout.takesBack at takes
    rw [Bool.and_eq_true] at takes
    exact of_decide_eq_true takes.1
  have own : ∀ j ∈ i :: c.queue, j.callout = c.number ∧ j.serial = c.serial := by
    intro j hj
    rcases List.mem_cons.1 hj with rfl | hj
    · exact ⟨named.symm, serial.symm⟩
    · exact h.own j hj
  have room : (i :: c.queue).length + flying ≤ 16 := by
    have := h.room
    simp only [List.length_cons]
    omega
  unfold Callout.putBack
  cases hl : c.lifecycle with
  | active run =>
    have moves := h.not_atRest hl (Nat.succ_pos _)
    have lying : ({ c with queue := i :: c.queue } : Callout).queueKept flying x :=
      ⟨own, room, fun run' hl' hr => absurd hr (h.not_atRest hl' (Nat.succ_pos _)), h.rate⟩
    rw [← hl, Callout.withProgress_active (c := { c with queue := i :: c.queue }) hl]
    exact lying.moving hl moves (.inl rfl)
  | departed | standingDown =>
    have inactive : ({ c with queue := i :: c.queue } : Callout).isActive = false := by simp only [Callout.isActive, hl]
    rw [← hl, Callout.withProgress_inactive inactive]
    exact Callout.queueKept_inactive inactive own room

/-! ### A state -/

/-- A state with no more items on their way, with the steps of its plans as they were, keeps every callout that was kept. -/
theorem State.keeps_of (h : s.keeps c) (fewer : t.inFlight c.number c.serial ≤ s.inFlight c.number c.serial)
    (steps : t.plans[c.plan].steps = s.plans[c.plan].steps) : t.keeps c := by
  unfold State.keeps
  rw [steps]
  exact Callout.queueKept.fewer h fewer

theorem State.inFlight_of_plan (plan : t.channel.plan = s.channel.plan) (n : Half) (x : Byte) :
    t.inFlight n x = s.inFlight n x := by
  simp only [State.inFlight, plan]

/-- The states of the planned items replaced, with no item newly unsent: no more items are on their way. -/
theorem State.inFlight_map_le {f : PlannedItem → PlannedItem} (plan : t.channel.plan = s.channel.plan.map f)
    (item : ∀ e, (f e).item = e.item) (unsent : ∀ e, (f e).unsent = true → e.unsent = true) (n : Half) (x : Byte) :
    t.inFlight n x ≤ s.inFlight n x := by
  unfold State.inFlight
  rw [plan, List.countP_map]
  refine List.countP_mono_left fun e _ h => ?_
  simp only [Function.comp_apply, item, Bool.and_eq_true] at h ⊢
  exact ⟨⟨unsent e h.1.1, h.1.2⟩, h.2⟩

/-- What every operation that adds nothing to the cycle plan has to show: the callouts that it leaves were kept before. -/
theorem State.queuesKept_of (callouts : t.everyCallout fun _ => s.keeps)
    (fewer : ∀ n x, t.inFlight n x ≤ s.inFlight n x) (steps : ∀ i : PlanIdx, t.plans[i].steps = s.plans[i].steps) :
    t.queuesKept :=
  State.everyCallout_mono callouts fun _ _ hc => State.keeps_of hc (fewer _ _) (steps _)

theorem State.queuesKept_of_kept (callouts : t.everyCallout fun _ => s.keeps) (plan : t.channel.plan = s.channel.plan)
    (stores : s.storesKept t) : t.queuesKept :=
  State.queuesKept_of callouts (fun n x => (State.inFlight_of_plan plan n x).le) fun i => (stores.plans i).2

theorem State.sameTables.queuesKept (same : s.sameTables t) (h : s.queuesKept) : t.queuesKept :=
  State.queuesKept_of_kept ((State.everyCallout_of_slots same.slots).2 h) same.cyclePlan same.storesKept

end Sys2Proof.Machine
end

section
/-! PROOF. The law of the transmission queues is kept by the operations that renumber no callout. -/

namespace Sys2Proof.Machine

open Sys2Proof

variable {short : Prop} {s t : State}

/-! ### Returns (R126) -/

/-- Whether a planned item carries a callout number and a step serial. -/
def PlannedItem.carries (n : Half) (x : Byte) (e : PlannedItem) : Bool := e.item.callout = n && e.item.serial = x

theorem State.inFlight_eq_unsent (s : State) (n : Half) (x : Byte) : s.inFlight n x = s.unsent.countP (PlannedItem.carries n x) := by
  unfold State.inFlight State.unsent
  rw [List.countP_filter]
  refine List.countP_congr fun e _ => ?_
  simp only [PlannedItem.carries, Bool.and_eq_true]
  tauto

/-- The items of a list of planned items returned one by one, the last first (R123, R126). -/
def State.returned (s : State) (l : List PlannedItem) : State := l.foldr (fun e u => State.returnItem e.item u) s

/-- What is kept of a callout while the items of `l` have been returned: those of its number and serial are off their way. -/
def State.keepsAfter (s : State) (l : List PlannedItem) (c : Callout) : Prop :=
  c.queueKept (s.inFlight c.number c.serial - l.countP (PlannedItem.carries c.number c.serial))
    s.plans[c.plan].steps[c.step]

/-- A callout with an item put back is the callout it was, but for its queue and progress (R126). -/
theorem Callout.putBack_same (c : Callout) (i : TxItem) :
    (c.putBack i).number = c.number ∧ (c.putBack i).serial = c.serial ∧ (c.putBack i).plan = c.plan ∧
      (c.putBack i).step = c.step := by
  unfold Callout.putBack Callout.withProgress
  split <;> exact ⟨rfl, rfl, rfl, rfl⟩

theorem State.keepsAfter_returned (h : s.queuesKept) (l : List PlannedItem)
    (planned : ∀ n x, l.countP (PlannedItem.carries n x) ≤ s.inFlight n x) :
    (s.returned l).everyCallout fun _ => s.keepsAfter l := by
  induction l with
  | nil => exact h
  | cons e rest ih =>
    have ih := ih fun n x => ((List.sublist_cons_self e rest).countP_le).trans (planned n x)
    have kept : (s.returned rest).everyCallout fun _ => s.keepsAfter (e :: rest) :=
      State.everyCallout_mono ih fun _ c hc => Callout.queueKept.fewer hc
        (Nat.sub_le_sub_left ((List.sublist_cons_self e rest).countP_le) _)
    show (State.returnItem e.item (s.returned rest)).everyCallout _
    rcases (s.returned rest).returnItem_effect e.item with he | ⟨k, c, hl, takes, he⟩ <;> rw [he]
    · exact kept
    · obtain ⟨held, named⟩ := State.lookup_some hl
      refine State.everyCallout_setSlot_some (kept.others k) ?_
      have serial : c.serial = e.item.serial := by
        unfold Callout.takesBack at takes
        rw [Bool.and_eq_true] at takes
        exact of_decide_eq_true takes.1
      have one : (e :: rest).countP (PlannedItem.carries c.number c.serial) =
          rest.countP (PlannedItem.carries c.number c.serial) + 1 :=
        List.countP_cons_of_pos (by simp [PlannedItem.carries, named, serial])
      have room := planned c.number c.serial
      obtain ⟨number', serial', plan', step'⟩ := c.putBack_same e.item
      unfold State.keepsAfter
      simp only [number', serial', plan', step']
      refine Callout.queueKept.putBack (Callout.queueKept.fewer (ih k c held) ?_) takes named
      omega

/-- After the return no item is on its way (R123). -/
theorem State.inFlight_returnUnsent (s : State) (n : Half) (x : Byte) : s.returnUnsent.inFlight n x = 0 := by
  unfold State.inFlight
  rw [s.returnUnsent_frame.2]
  refine List.countP_eq_zero.2 fun e he => ?_
  obtain ⟨d, -, rfl⟩ := List.mem_map.1 he
  split
  · simp [PlannedItem.unsent]
  · rename_i hd
    simp [hd]

theorem State.queuesKept_returnUnsent (h : s.queuesKept) : s.returnUnsent.queuesKept := by
  have all := State.keepsAfter_returned h s.unsent fun n x => (s.inFlight_eq_unsent n x).ge
  have callouts : s.returnUnsent.everyCallout fun _ => s.keepsAfter s.unsent := all
  refine State.everyCallout_mono callouts fun _ c hc => ?_
  unfold State.keeps
  rw [s.inFlight_returnUnsent, (s.storesKept_returnUnsent.plans c.plan).2]
  exact Callout.queueKept.fewer hc (Nat.zero_le _)

/-! ### Completions (R47, R125) -/

/-- The item that completes is on its way. -/
theorem State.completing_some {e : PlannedItem} (due : s.completing = some e) : e ∈ s.channel.plan ∧ e.unsent = true := by
  have on := List.find?_some due
  simp only [Bool.and_eq_true, decide_eq_true_eq] at on
  exact ⟨List.mem_of_find?_eq_some due, by simp [PlannedItem.unsent, on.1]⟩

/-- Marking an item Sent, or an unsent one On air, puts no more items on their way. -/
theorem State.inFlight_markItem_le {e : PlannedItem} {st : ItemState} (unsent : e.unsent = true) (n : Half) (x : Byte) :
    (s.markItem e st).inFlight n x ≤ s.inFlight n x := by
  refine State.inFlight_map_le (f := fun y => if y = e then { y with state := st } else y) rfl (fun y => ?_) (fun y hy => ?_) n x
  · split <;> rfl
  · split at hy
    · rename_i hye
      exact hye ▸ unsent
    · exact hy

/-- A matched completion keeps the queue of an Active callout that was not at rest (R47). -/
theorem State.keeps_advance {c : Callout} {run : ActiveRun} (active : c.lifecycle = .active run) (moves : ¬run.atRest)
    (h : s.keeps c) : s.keeps (s.advance c) := by
  unfold State.advance
  split
  · exact h
  · rename_i sending
    have none : s.inFlight c.number c.serial = 0 := by
      refine List.countP_eq_zero.2 fun e he hc => sending ?_
      exact List.any_eq_true.2 ⟨e, he, hc⟩
    split
    · rename_i empty
      split
      · rw [Callout.withProgress_active active]
        refine ⟨h.own, h.room, fun run' hl _ => ⟨List.isEmpty_iff.1 empty, none⟩, fun run' hl => ?_⟩
        cases hl
        exact ⟨fun hp => (by cases hp), fun _ => (h.rate run active).2 fun hp => moves (.inr hp)⟩
      · exact h
    · rw [Callout.withProgress_active active]
      exact Callout.queueKept.moving h active moves (.inl rfl)

theorem State.queuesKept_complete (h : s.queuesKept) {e : PlannedItem} (due : s.completing = some e) :
    (s.complete e).queuesKept := by
  obtain ⟨planned, unsent⟩ := State.completing_some due
  have onTheWay : 0 < s.inFlight e.item.callout e.item.serial :=
    List.countP_pos_iff.2 ⟨e, planned, by simp [unsent]⟩
  show (State.matchCompletion { s.markItem e .sent with tx := (s.markItem e .sent).tx.ended e } e.item).queuesKept
  have marked : ({ s.markItem e .sent with tx := (s.markItem e .sent).tx.ended e } : State).queuesKept :=
    State.queuesKept_of h (State.inFlight_markItem_le unsent) fun _ => rfl
  have slots : ({ s.markItem e .sent with tx := (s.markItem e .sent).tx.ended e } : State).slots = s.slots := rfl
  generalize ({ s.markItem e .sent with tx := (s.markItem e .sent).tx.ended e } : State) = u at marked slots ⊢
  unfold State.matchCompletion
  split
  · exact marked
  · rename_i k c hl
    obtain ⟨held, named⟩ := State.lookup_some hl
    have kept := marked k c held
    split
    · rename_i serial
      split
      · rename_i run active
        split
        · have before : s.keeps c := h k c (slots ▸ held)
          have moves : ¬run.atRest := Callout.queueKept.not_atRest before active (by rw [named, serial]; exact onTheWay)
          exact State.everyCallout_setSlot_some (State.everyCallout.others marked k) (State.keeps_advance active moves kept)
        · exact marked
      · rename_i sent standing
        split
        · split
          · exact State.everyCallout_free k (State.everyCallout.others marked k) c .stoodDown
          · refine State.everyCallout_setSlot_some (State.everyCallout.others marked k) ?_
            exact Callout.queueKept_inactive rfl kept.own kept.room
        · exact marked
      · exact marked
    · exact marked

/-! ### The operations -/

/-- The crew builder's writing back leaves the cycle plan. -/
theorem State.settle_cyclePlan (s : State) (k : SlotIdx) (c : Callout) :
    (s.settle k c).channel.plan = s.channel.plan := by
  have frame := congrArg (fun u : State => u.channel.plan) (s.settle_frame k c).1
  exact frame

theorem State.record_cyclePlan (s : State) (k : SlotIdx) (c : Callout) (r : Reply) (a : Answer) (mark : Bool) (room : Room) :
    (s.record k c r a mark room).channel.plan = s.channel.plan := by
  have engaged := congrArg (fun u : State => u.channel.plan) (s.engageReply_frame c.number r.member a mark).1
  rw [(s.record_effect k c r a mark room).sameTables.cyclePlan, State.settle_cyclePlan]
  exact engaged

theorem State.withdraw_cyclePlan (s : State) (k : SlotIdx) (d : Callout) (r : Reply) :
    (s.withdraw k d r).channel.plan = s.channel.plan := by
  rw [(s.withdraw_effect k d r).sameTables.cyclePlan, State.settle_cyclePlan]
  rfl

theorem State.stopSlots_cyclePlan (s : State) : s.stopSlots.channel.plan = s.channel.plan := by
  have told := s.stopSlots_effect.1.sameTables.cyclePlan
  generalize s.stopSlots = u at told ⊢
  exact told

theorem State.TableOp.queuesKept (op : s.TableOp short t) (h : s.queuesKept) : t.queuesKept := by
  cases op with
  | quiet same => exact same.queuesKept h
  | tellMember | writeMember | dropHandOff => exact State.queuesKept_of h (fun _ _ => le_rfl) fun _ => rfl
  | merge p k c priority held =>
    refine State.queuesKept_of_kept ?_ rfl (State.storesKept_of_eq rfl rfl rfl)
    refine (State.everyCallout_of_noticed (State.noticed_raiseNotice _ _ _)).2 ?_
    obtain ⟨own, room, rest, rate⟩ := h k c held
    exact State.everyCallout_setSlot_some (State.everyCallout.others h k) ⟨own, room, rest, rate⟩
  | release k c =>
    refine State.queuesKept_of ?_ (fun _ _ => le_rfl) fun _ => rfl
    exact State.everyCallout_free (s := s.disengage _) k (State.everyCallout.others h k) c .released
  | record k c r a mark room held =>
    refine State.queuesKept_of_kept ?_ (s.record_cyclePlan k c r a mark room) (s.storesKept_record k c r a mark room)
    obtain ⟨own, room', rest, rate⟩ := h k c held
    refine (State.everyCallout_of_noticed (s.record_effect k c r a mark room)).2 (State.everyCallout_settle ?_ ?_)
    · refine State.everyCallout.others ?_ k
      exact (State.everyCallout_of_slots (congrArg State.slots (s.engageReply_frame c.number r.member a mark).1)).2 h
    · exact ⟨own, room', rest, rate⟩
  | withdraw k d r held =>
    refine State.queuesKept_of_kept ?_ (s.withdraw_cyclePlan k d r) (s.storesKept_withdraw k d r)
    obtain ⟨own, room, rest, rate⟩ := h k d held
    refine (State.everyCallout_of_noticed (s.withdraw_effect k d r)).2 ?_
    exact State.everyCallout_settle (s := s.engage r.member .free) (State.everyCallout.others h k) ⟨own, room, rest, rate⟩
  | handOn m a eta tag =>
    unfold State.handOn
    split
    · exact State.queuesKept_of h (fun _ _ => le_rfl) fun _ => rfl
    · exact h
  | tick =>
    refine State.queuesKept_of (fun k c hc => ?_) (fun _ _ => le_rfl) fun _ => rfl
    simp only [Fin.getElem_fin, Vector.getElem_map, Option.mem_def, Option.map_eq_some_iff] at hc
    obtain ⟨d, hd, rfl⟩ := hc
    have same : d.ticked.number = d.number ∧ d.ticked.serial = d.serial ∧ d.ticked.plan = d.plan ∧ d.ticked.step = d.step := by
      unfold Callout.ticked
      split <;> exact ⟨rfl, rfl, rfl, rfl⟩
    obtain ⟨number, serial, plan, step⟩ := same
    have kept := Callout.queueKept.ticked (h k d hd)
    unfold State.keeps
    simp only [number, serial, plan, step]
    exact kept
  | returnUnsent => exact State.queuesKept_returnUnsent h
  | stopSlots =>
    refine State.queuesKept_of_kept ?_ s.stopSlots_cyclePlan s.storesKept_stopSlots
    exact State.everyCallout_stopSlots h fun _ c hc _ => Callout.queueKept.emptied hc
  | complete e due => exact State.queuesKept_complete h due
  | send e unsent => exact State.queuesKept_of h (State.inFlight_markItem_le unsent) fun _ => rfl
  | clear roster plans slots =>
    intro k c hc
    rw [slots k] at hc
    cases hc

theorem State.TableOps.queuesKept (ops : s.TableOps short t) (h : s.queuesKept) : t.queuesKept := by
  induction ops with
  | refl => exact h
  | tail _ op ih => exact op.queuesKept ih

end Sys2Proof.Machine
end

section
/-! PROOF. A plan point keeps the law of the transmission queues: what a callout's turn takes from its queue is on its way (R114, R116). -/

namespace Sys2Proof.Machine

open Sys2Proof

variable {s : State}

/-- No two callouts have the same number (R37). -/
def State.numbersDistinct (s : State) : Prop :=
  ∀ k j : SlotIdx, ∀ c ∈ s.slots[k], ∀ d ∈ s.slots[j], c.number = d.number → k = j

theorem State.numbersDistinct_of_tags (h : s.tagsDistinct) : s.numbersDistinct := by
  intro k j c hc d hd same
  exact h.2.2 k j c hc d hd (.inl (by rw [same]))

/-! ### Turns -/

theorem slots_planTurns (budget : Nat) (l : List (SlotIdx × Callout)) :
    (planTurns budget l).map (·.slot) = l.map (·.1) := by
  induction l generalizing budget with
  | nil => rfl
  | cons x rest ih => exact congrArg (x.1 :: ·) (ih _)

/-- Every waiting callout has its turn (R116). -/
theorem turn_mem_planTurns {budget : Nat} {l : List (SlotIdx × Callout)} {k : SlotIdx} {c : Callout} (h : (k, c) ∈ l) :
    ∃ b, turnOf b k c ∈ planTurns budget l := by
  induction l generalizing budget with
  | nil => cases h
  | cons x rest ih =>
    rcases List.mem_cons.1 h with rfl | h
    · exact ⟨budget, List.mem_cons_self⟩
    · obtain ⟨b, hb⟩ := ih h
      exact ⟨b, List.mem_cons_of_mem _ hb⟩

/-- Each waiting callout waits once (R116). -/
theorem State.nodup_waiting (s : State) : (s.waiting.map (·.1)).Nodup := by
  have waiting : s.waiting.Nodup := by
    refine (sortBy_perm _ _).nodup_iff.2 (List.Nodup.filterMap (fun k j x hk hj => ?_) (List.nodup_finRange 8))
    have first : ∀ i : SlotIdx, x ∈ (match s.slots[i] with
        | some c => if c.queue.isEmpty then none else some (i, c)
        | none => none : Option (SlotIdx × Callout)) → x.1 = i := by
      intro i hi
      split at hi
      · split at hi <;> cases hi
        rfl
      · cases hi
    exact (first k hk).symm.trans (first j hj)
  refine List.Nodup.map_on (fun x hx y hy same => ?_) waiting
  obtain ⟨k, c⟩ := x
  obtain ⟨j, d⟩ := y
  obtain rfl : k = j := same
  have held := (State.mem_waiting.1 hx).1
  rw [(State.mem_waiting.1 hy).1] at held
  cases held
  rfl

/-- The slots after the turns: a slot with a turn holds what it left, every other slot what it held. -/
theorem State.slots_foldl_turns (turns : List Turn) (u : State) (once : (turns.map (·.slot)).Nodup) :
    let v := turns.foldl (fun s t => s.setSlot t.slot (some t.left)) u
    (∀ t ∈ turns, v.slots[t.slot] = some t.left) ∧ ∀ j, j ∉ turns.map (·.slot) → v.slots[j] = u.slots[j] := by
  induction turns generalizing u with
  | nil => exact ⟨fun _ h => (by cases h), fun _ _ => rfl⟩
  | cons x rest ih =>
    rw [List.map_cons, List.nodup_cons] at once
    obtain ⟨turn, other⟩ := ih (u.setSlot x.slot (some x.left)) once.2
    refine ⟨fun t ht => ?_, fun j hj => ?_⟩
    · rcases List.mem_cons.1 ht with rfl | ht
      · exact (other _ once.1).trans (u.slots_setSlot_self _ _)
      · exact turn t ht
    · rw [List.map_cons, List.mem_cons, not_or] at hj
      exact (other j hj.2).trans (u.slots_setSlot_other _ hj.1)

/-- Of the items planned, those that only one turn can have planned are at most what it planned. -/
theorem countP_planned_le {turns : List Turn} {t : Turn} {p : TxItem → Bool} (once : (turns.map (·.slot)).Nodup) (ht : t ∈ turns)
    (others : ∀ x ∈ turns, x.slot ≠ t.slot → ∀ i ∈ x.planned, p i = false) :
    (turns.flatMap (·.planned)).countP p ≤ t.planned.length := by
  obtain ⟨before, after, rfl⟩ := List.append_of_mem ht
  have none : ∀ l : List Turn, (∀ x ∈ l, x ∈ before ++ t :: after ∧ x.slot ≠ t.slot) → (l.flatMap (·.planned)).countP p = 0 := by
    intro l hl
    refine List.countP_eq_zero.2 fun i hi => ?_
    obtain ⟨x, hx, hi⟩ := List.mem_flatMap.1 hi
    simp [others x (hl x hx).1 (hl x hx).2 i hi]
  rw [List.map_append, List.map_cons, List.nodup_append] at once
  obtain ⟨-, tail, apart⟩ := once
  have outside : ∀ x, x ∈ before ∨ x ∈ after → x.slot ≠ t.slot := by
    rintro x (hx | hx) same
    · exact apart _ (List.mem_map_of_mem hx) _ List.mem_cons_self same
    · exact (List.nodup_cons.1 tail).1 (same ▸ List.mem_map_of_mem hx)
  rw [List.flatMap_append, List.flatMap_cons, List.countP_append, List.countP_append,
    none before fun x hx => ⟨List.mem_append_left _ hx, outside x (.inl hx)⟩,
    none after fun x hx => ⟨List.mem_append_right _ (List.mem_cons_of_mem _ hx), outside x (.inr hx)⟩]
  simpa using List.countP_le_length

/-- A planned item is its callout's: it comes from its queue (R116). -/
theorem State.planned_number (h : s.queuesKept) {budget : Nat} {t : Turn} (ht : t ∈ planTurns budget s.waiting) :
    ∃ c, s.slots[t.slot] = some c ∧ ∀ i ∈ t.planned, i.callout = c.number := by
  obtain ⟨b, k, c, hw, rfl⟩ := mem_planTurns ht
  have held := (State.mem_waiting.1 hw).1
  refine ⟨c, held, fun i hi => ((h k c held).own i ?_).1⟩
  rw [← takeTurn_append b false c.queue]
  exact List.mem_append_left _ hi

/-- A laid-out plan has on their way the items that it holds. -/
theorem countP_layOut (start : Nat) (l : List TxItem) (n : Half) (x : Byte) :
    ((layOut start l).countP fun e => e.unsent && e.item.callout = n && e.item.serial = x) =
      l.countP fun i => i.callout = n && i.serial = x := by
  induction l generalizing start with
  | nil => rfl
  | cons i rest ih =>
    rw [layOut, List.countP_cons, List.countP_cons, ih]
    rfl

/-- A turn of a callout that is not at rest leaves it its queue's rest, with what was planned on its way (R47, R116). -/
theorem Callout.queueKept.turn {c : Callout} {flying n : Nat} {x : PlanStep} (h : c.queueKept flying x) (b : Nat) (k : SlotIdx)
    (waiting : c.queue ≠ []) (planned : n ≤ (turnOf b k c).planned.length) : (turnOf b k c).left.queueKept n x := by
  have parts := takeTurn_append b false c.queue
  have moves : ∀ run, c.lifecycle = .active run → ¬run.atRest := fun run hl hr => waiting (h.rest run hl hr).1
  have left : (turnOf b k c).callout.queueKept n x := by
    refine ⟨fun i hi => h.own i ?_, ?_, fun run hl hr => absurd hr (moves run hl), h.rate⟩
    · rw [← parts]; exact List.mem_append_right _ hi
    · have total : c.queue.length ≤ 16 := (Nat.le_add_right _ _).trans h.room
      rw [← parts, List.length_append] at total
      have planned : n ≤ (takeTurn b false c.queue).1.length := planned
      show (takeTurn b false c.queue).2.length + n ≤ 16
      omega
  unfold Turn.left
  split
  · exact left
  · split
    · rename_i run active
      split
      · rw [Callout.withProgress_active active]
        exact left.moving active (moves run active) (.inr rfl)
      · exact left
    · exact left

theorem Turn.left_same (t : Turn) :
    t.left.number = t.callout.number ∧ t.left.serial = t.callout.serial ∧ t.left.plan = t.callout.plan ∧
      t.left.step = t.callout.step := by
  unfold Turn.left Callout.withProgress
  split
  · exact ⟨rfl, rfl, rfl, rfl⟩
  · split
    · split
      · split <;> exact ⟨rfl, rfl, rfl, rfl⟩
      · exact ⟨rfl, rfl, rfl, rfl⟩
    · exact ⟨rfl, rfl, rfl, rfl⟩

theorem State.queuesKept_buildPlan (h : s.queuesKept) (distinct : s.numbersDistinct) : s.buildPlan.queuesKept := by
  have once : ((planTurns Config.outboundBudget s.waiting).map (·.slot)).Nodup := by
    rw [slots_planTurns]; exact s.nodup_waiting
  obtain ⟨turn, other⟩ := State.slots_foldl_turns _ s once
  have flying : ∀ n x, s.buildPlan.inFlight n x =
      ((planTurns Config.outboundBudget s.waiting).flatMap (·.planned)).countP fun i => i.callout = n && i.serial = x :=
    fun n x => countP_layOut _ _ n x
  have foreign : ∀ (k : SlotIdx) (c : Callout), s.slots[k] = some c → ∀ t ∈ planTurns Config.outboundBudget s.waiting, t.slot ≠ k →
      ∀ i ∈ t.planned, (decide (i.callout = c.number) && decide (i.serial = c.serial)) = false := by
    intro k c hk t ht hne i hi
    obtain ⟨d, hd, own⟩ := State.planned_number h ht
    have : i.callout ≠ c.number := by
      rw [own i hi]
      exact fun same => hne (distinct t.slot k d hd c hk same)
    simp [this]
  intro k c' hc'
  have hc' : (List.foldl (fun s t => s.setSlot t.slot (some t.left)) s
    (planTurns Config.outboundBudget s.waiting)).slots[k] = some c' := hc'
  unfold State.keeps
  rw [flying, (s.storesKept_buildPlan.plans c'.plan).2]
  by_cases hk : k ∈ s.waiting.map (·.1)
  · obtain ⟨⟨j, c⟩, hw, rfl⟩ := List.mem_map.1 hk
    obtain ⟨held, waits⟩ := State.mem_waiting.1 hw
    obtain ⟨b, ht⟩ := turn_mem_planTurns (budget := Config.outboundBudget) hw
    obtain rfl : c' = (turnOf b j c).left := Option.some.inj (hc'.symm.trans (turn _ ht))
    obtain ⟨number, serial, plan, step⟩ := (turnOf b j c).left_same
    simp only [number, serial, plan, step]
    exact Callout.queueKept.turn (h j c held) b j waits (countP_planned_le once ht (foreign j c held))
  · rw [other k (by rw [slots_planTurns]; exact hk)] at hc'
    have empty : c'.queue = [] := by
      by_contra waits
      exact hk (List.mem_map.2 ⟨(k, c'), State.mem_waiting.2 ⟨hc', waits⟩, rfl⟩)
    refine Callout.queueKept.fewer (h k c' hc') (le_of_eq_of_le (List.countP_eq_zero.2 fun i hi => ?_) (Nat.zero_le _))
    obtain ⟨t, ht, hi⟩ := List.mem_flatMap.1 hi
    have hne : t.slot ≠ k := by
      rintro rfl
      exact hk (slots_planTurns _ _ ▸ List.mem_map_of_mem ht)
    simp [foreign k c' hc' t ht hne i hi]

end Sys2Proof.Machine
end

section
/-! PROOF. The law of the transmission queues is kept by every step, on the premise that renumbered callouts find no item of their
number and serial on its way (R49, log entry 22). -/

namespace Sys2Proof.Machine

open Sys2Proof

variable {s t : State}

/-! ### Fresh serials -/

/-- What `serialsFresh` gives of one slot and the callout that an operation leaves in it. -/
def State.freshIn (s : State) (k : SlotIdx) (c : Callout) : Prop :=
  (s.slots[k]).map (fun d => (d.number, d.serial)) ≠ some (c.number, c.serial) → s.inFlight c.number c.serial = 0

/-- A callout that is kept if its number and serial are fresh. -/
def State.keepsFresh (s : State) (k : SlotIdx) (c : Callout) : Prop := s.freshIn k c → s.keeps c

/-- A serial that advances fewer than 256 times is another. -/
theorem serial_moves (x : Byte) {n : Nat} (low : 1 ≤ n) (high : n < 256) : x + BitVec.ofNat 8 n ≠ x := by
  intro same
  have same := congrArg BitVec.toNat same
  simp only [BitVec.toNat_add, BitVec.toNat_ofNat] at same
  have := x.isLt
  omega

/-- A callout whose number and serial its slot did not have has none of its items on their way, so a queue is kept that would be
with none. -/
theorem State.keepsFresh_of_new {k : SlotIdx} {c : Callout}
    (new : (s.slots[k]).map (fun d => (d.number, d.serial)) ≠ some (c.number, c.serial))
    (kept : c.queueKept 0 s.plans[c.plan].steps[c.step]) : s.keepsFresh k c := by
  intro fresh
  unfold State.keeps
  rw [fresh new]
  exact kept

/-- So it is of a callout of the slot's number whose serial has advanced (R49). -/
theorem State.keepsFresh_of_renumbered {k : SlotIdx} {c d : Callout} {n : Nat} (held : s.slots[k] = some c) (low : 1 ≤ n)
    (high : n < 256) (serial : d.serial = c.serial + BitVec.ofNat 8 n)
    (kept : d.queueKept 0 s.plans[d.plan].steps[d.step]) : s.keepsFresh k d := by
  refine State.keepsFresh_of_new ?_ kept
  rw [held, serial]
  intro same
  simp only [Option.map_some, Option.some.injEq, Prod.mk.injEq] at same
  exact serial_moves c.serial low high same.2.symm

/-- What a slot keeps when nothing renumbers it. -/
theorem State.keepsFresh_of_kept (h : s.queuesKept) : s.everyCallout s.keepsFresh :=
  State.everyCallout_mono h fun _ _ kept _ => kept

/-! ### A step's start -/

/-- An exhausted plan leaves no rate, and nothing queued (R41). -/
theorem Callout.queueKept_exhausted {c : Callout} {x : PlanStep} (empty : c.queue = []) :
    (c.withRun ⟨.exhausted, 0, none⟩).queueKept 0 x := by
  have queue : (c.withRun ⟨.exhausted, 0, none⟩).queue = [] := empty
  refine ⟨fun i hi => ?_, ?_, fun _ _ _ => ⟨queue, rfl⟩, fun run hl => ?_⟩
  · rw [queue] at hi; cases hi
  · rw [queue]; exact Nat.zero_le _
  · cases hl
    exact ⟨fun _ => rfl, fun h => absurd rfl h⟩

/-- An action enqueues at most 16 items (R24, R42 to R45). -/
theorem State.act_length (s : State) (c : Callout) (rate : CodeRate) {a : Action} (range : a.inRange) :
    (s.act c rate a).1.length ≤ 16 := by
  cases a with
  | groupPage groups =>
    simp only [State.act, List.length_map, groupsOf]
    exact (List.length_filter_le _ _).trans (by simp)
  | shortfallPage n =>
    simp only [State.act, List.length_map, State.shortfall]
    exact (List.length_take_le _ _).trans range.2
  | toneCall | aidRequest => simp [State.act]

/-- An action taken with nothing queued queues its own items under the callout's number and serial, at the step's rate (R41, R46). -/
theorem State.queueKept_acted (s : State) {c : Callout} {run : ActiveRun} {a : Action} {hold : Nat} {x : PlanStep}
    (empty : c.queue = []) (range : a.inRange) (rate : run.rate.isSome = x.pages) :
    (s.acted c run a hold).queueKept 0 x := by
  have queue : (s.acted c run a hold).queue = (s.act c (run.rate.getD .half) a).1.map (s.acted c run a hold).item := by
    have before : (s.act c (run.rate.getD .half) a).2.queue = [] := by cases a <;> exact empty
    simp only [State.acted, Callout.withRun, Callout.enqueue, before, List.nil_append]
    rfl
  refine ⟨fun i hi => ?_, ?_, fun run' hl hr => ⟨?_, rfl⟩, fun run' hl => ?_⟩
  · rw [queue] at hi
    obtain ⟨kind, -, rfl⟩ := List.mem_map.1 hi
    exact ⟨rfl, rfl⟩
  · rw [queue, List.length_map]
    exact s.act_length c _ range
  · rw [s.acted_lifecycle] at hl
    cases hl
    rw [queue]
    by_cases none : (s.act c (run.rate.getD .half) a).1 = []
    · rw [none]; rfl
    · simp [ActiveRun.atRest, none] at hr
  · rw [s.acted_lifecycle] at hl
    cases hl
    refine ⟨fun hp => ?_, fun _ => rate⟩
    by_cases none : (s.act c (run.rate.getD .half) a).1 = [] <;> simp [none, Callout.heldFor] at hp

/-- A step's start, in a state `u` with the plans of `s`, keeps the queue that it fills, if number and serial are fresh: `number` is
what makes them new, for every serial that the start can reach. -/
theorem State.keepsFresh_startStep {u : State} {k : SlotIdx} {c : Callout} (i : Nat) (others : u.otherCallouts k s.keepsFresh)
    (plans : u.plansInRange) (stores : s.storesKept u) (empty : c.queue = [])
    (new : ∀ n, 1 ≤ n → n ≤ 9 →
      (s.slots[k]).map (fun d => (d.number, d.serial)) ≠ some (c.number, c.serial + BitVec.ofNat 8 n)) :
    (u.startStep k i c).everyCallout s.keepsFresh := by
  refine State.everyCallout_startStep others
    (fun n step l low high => State.keepsFresh_of_new (new n low high) (Callout.queueKept_exhausted empty))
    fun n j l a cond hold reps low high hj => ?_
  obtain ⟨number, serial, plan, step⟩ := u.acted_same (c.renumbered n j l) ⟨.queued, reps, a.rate⟩ a hold
  refine State.keepsFresh_of_new (by rw [number, serial]; exact new n low high) ?_
  obtain ⟨-, steps, -⟩ := plans c.plan
  have range := steps j
  rw [hj] at range
  have entered : s.plans[c.plan].steps[j] = .act a cond hold reps := by
    rw [← (stores.plans c.plan).2]; exact hj
  simp only [plan, step]
  have pages : (PlanStep.act a cond hold reps).pages = s.plans[c.plan].steps[j].pages := by rw [entered]
  exact u.queueKept_acted empty range.1 pages

/-- The serials that a callout of the slot can reach by a step's start are new, after a renumbering by `m`. -/
theorem State.renumbered_new {k : SlotIdx} {c : Callout} (held : s.slots[k] = some c) (number : Half) {m n : Nat} (low : 1 ≤ n)
    (high : m + n < 256) : (s.slots[k]).map (fun d => (d.number, d.serial)) ≠
      some (number, c.serial + BitVec.ofNat 8 m + BitVec.ofNat 8 n) := by
  rw [held, BitVec.add_assoc, ← BitVec.ofNat_add]
  intro same
  simp only [Option.map_some, Option.some.injEq, Prod.mk.injEq] at same
  exact serial_moves c.serial (by omega) high same.2.symm

/-- The operations that renumber a callout keep every queue whose number and serial are fresh. -/
theorem State.SerialOp.keepsFresh (op : s.SerialOp t) (plans : s.plansInRange) (callouts : s.everyCallout fun _ => Callout.inRange)
    (h : s.queuesKept) : t.everyCallout s.keepsFresh := by
  have fresh := State.keepsFresh_of_kept h
  cases op with
  | allocate p reference i priority cls location k free =>
    unfold State.allocate
    have stores : s.storesKept (((({ s with serialCounter := nextNumber (s.newCallout p reference i priority cls location).number } :
        State).takeUpPlan i).setSlot k (some (s.newCallout p reference i priority cls location))).raiseNotice
          (s.interested (s.newCallout p reference i priority cls location))
          (raisedNotice (s.newCallout p reference i priority cls location) p k)) :=
      State.storesKept_trans (State.storesKept_takeUpPlan s i) (State.storesKept_of_eq rfl rfl rfl)
    refine State.keepsFresh_startStep 0 ?_ (State.plansInRange_of_kept plans stores) stores rfl fun n _ _ => ?_
    · refine (State.otherCallouts_of_noticed (State.noticed_raiseNotice _ _ _)).2 ?_
      exact State.everyCallout_setSlot_some (State.everyCallout.others (fresh.others k) k) fun different => absurd rfl different
    · rw [free]
      exact fun same => by cases same
  | escalate k c i held active =>
    unfold State.escalateTo
    dsimp only
    have changed := s.storesKept_changePlan c i
    have others : (if i = c.plan then s else (s.leavePlan c.plan).takeUpPlan i).otherCallouts k s.keepsFresh := by
      split <;> exact fresh.others k
    generalize (if i = c.plan then s else (s.leavePlan c.plan).takeUpPlan i) = u at changed others
    have told := State.noticed_raiseCrewStatus (u.settle k (u.evaluated { c.bumped with queue := [], plan := i })) c.crew
      (u.evaluated { c.bumped with queue := [], plan := i })
    have stores := State.storesKept_trans changed
      (State.storesKept_trans (State.storesKept_settle u k (u.evaluated { c.bumped with queue := [], plan := i })) told.storesKept)
    refine State.keepsFresh_startStep 0 ?_ (State.plansInRange_of_kept plans stores) stores rfl fun n low _ => ?_
    · exact (State.otherCallouts_of_noticed told).2 (State.otherCallouts_settle others _)
    · exact State.renumbered_new (m := 1) held _ low (by omega)
  | cancel k c held =>
    unfold State.cancelCallout
    dsimp only
    split
    · refine State.everyCallout_setSlot_some (fresh.others k)
        (State.keepsFresh_of_renumbered (n := 1) held le_rfl (by decide) rfl (Callout.queueKept_inactive rfl ?_ ?_))
      · simp [Callout.enqueue, Callout.item, Callout.bumped]
      · simp [Callout.enqueue]
    · exact State.everyCallout_free k (fresh.others k) c .cancelled
  | depart k c held =>
    unfold State.depart
    dsimp only
    refine (State.everyCallout_of_noticed (State.noticed_raiseNotice _ _ _)).2 (State.everyCallout_setSlot_some (fresh.others k)
      (State.keepsFresh_of_renumbered (n := 1) held le_rfl (by decide) rfl (Callout.queueKept_inactive rfl ?_ ?_)))
    · split <;> simp [Callout.enqueue, Callout.item, Callout.bumped]
    · split <;> simp [Callout.enqueue]
  | expire k c repeats deadline rate due held run =>
    obtain ⟨record, range⟩ := callouts k c held
    obtain ⟨-, holding, -⟩ := (Callout.runInRange_active run).1 range
    obtain ⟨-, -, empty⟩ := holding deadline due rfl
    have restart : ∀ i, (s.startStep k i c).everyCallout s.keepsFresh := fun i =>
      State.keepsFresh_startStep i (fresh.others k) plans s.storesKept_refl empty fun n low _ => by
        have new := State.renumbered_new (m := 0) held c.number low (by omega)
        simpa using new
    unfold State.expireHold
    split
    · rename_i a cond hold _ hstep
      split
      · obtain ⟨-, steps, -⟩ := plans c.plan
        have entered := steps c.step
        rw [hstep] at entered
        have rated := ((h k c held).rate _ run).2 fun hp => by cases hp
        obtain ⟨-, serial, plan, step⟩ := s.acted_same c.bumped
          ⟨.holding deadline due, repeats - 1, rate.map CodeRate.stronger⟩ a hold
        refine State.everyCallout_takeAction (fresh.others k)
          (State.keepsFresh_of_renumbered (n := 1) held le_rfl (by decide) serial ?_)
        simp only [plan, step]
        exact s.queueKept_acted empty entered.1 (Eq.trans (Option.isSome_map ..) rated)
      · exact restart _
    · exact restart _

/-- The crew builder and the step starts leave the cycle plan, so the operations that renumber a callout do (R114). -/
theorem State.SerialOp.cyclePlan (op : s.SerialOp t) : t.channel.plan = s.channel.plan := by
  have start : ∀ (u : State) k i c, (u.startStep k i c).channel.plan = u.channel.plan := by
    intro u k i c
    obtain ⟨v, c', hv, he, -⟩ := u.startStep_effect k i c
    rw [he]
    exact hv.sameTables.cyclePlan
  cases op with
  | allocate p reference i priority cls location k => exact start _ k 0 _
  | escalate k c i =>
    unfold State.escalateTo
    dsimp only
    rw [start, (State.noticed_raiseCrewStatus _ _ _).sameTables.cyclePlan, State.settle_cyclePlan]
    split <;> rfl
  | cancel k c =>
    unfold State.cancelCallout
    dsimp only
    split <;> rfl
  | depart => rfl
  | expire k c repeats deadline rate due =>
    obtain ⟨v, c', hv, he, -⟩ := s.expireHold_effect k c ⟨.holding deadline due, repeats, rate⟩
    rw [he]
    exact hv.sameTables.cyclePlan

/-- Kept if fresh, and fresh: kept. -/
theorem State.SerialOp.queuesKept (op : s.SerialOp t) (law : s.fieldsInRange) (h : s.queuesKept) (fresh : serialsFresh s t) :
    t.queuesKept := by
  obtain ⟨stores, callouts⟩ := s.fieldsInRange_iff.1 law
  have kept := op.keepsFresh stores.1 callouts h
  exact State.queuesKept_of_kept (fun k c hc => kept k c hc (fresh k c hc)) op.cyclePlan op.storesKept

/-! ### Plan writes and the law -/

/-- No Active callout runs a plan whose usage count is 0 (R29). -/
def State.unusedUnrun (s : State) : Prop :=
  ∀ i : PlanIdx, s.plans[i].usage = 0 → ∀ k : SlotIdx, ∀ c ∈ s.slots[k], c.isActive = true → c.plan ≠ i

theorem State.unusedUnrun_of_usage (h : s.usageExact) : s.unusedUnrun := by
  intro i unused k c hc active same
  rw [h.1 i] at unused
  have none := List.countP_eq_zero.1 unused k (by simp [allSlots])
  rw [Option.mem_def.1 hc] at none
  exact none (by simp [runsPlan, active, same])

/-- A plan that no callout runs is written, and every rate still is its step's (R27 check 2, R33). -/
theorem State.queuesKept_setPlan (h : s.queuesKept) (unrun : s.unusedUnrun) {i : PlanIdx} (unused : s.plans[i].usage = 0)
    (x : Plan) : (s.setPlan i x).queuesKept := by
  intro k c hc
  have kept : s.keeps c := h k c hc
  by_cases active : c.isActive = true
  · have other := unrun i unused k c hc active
    refine State.keeps_of kept le_rfl ?_
    rw [State.plans_setPlan_other _ _ other]
  · exact Callout.queueKept_inactive (by simpa using active) kept.own kept.room

theorem State.Moved.queuesKept (moved : s.Moved True t) (law : s.fieldsInRange) (distinct : s.numbersDistinct)
    (unrun : s.unusedUnrun) (h : s.queuesKept) (fresh : serialsFresh s t) : t.queuesKept := by
  cases moved with
  | kept ops => exact ops.queuesKept h
  | planWritten i x unused written same => exact same.queuesKept (State.queuesKept_setPlan h unrun unused x)
  | planned same ops =>
    refine ops.queuesKept (State.queuesKept_buildPlan (same.queuesKept h) fun k j c hc d hd => ?_)
    simp only [same.slots] at hc hd
    exact distinct k j c hc d hd
  | renumbered op same =>
    refine same.queuesKept (op.queuesKept law h fun k c hc => fresh k c ?_)
    simp only [same.slots]
    exact hc

/-- The queues and rates are kept over a step, on the premise of fresh serials (R33, R41, R46, R49). -/
theorem step_queuesKept (law : s.queueLaw) (h : step s = .next t) (fresh : serialsFresh s t) : t.queuesKept := by
  obtain ⟨tags, range, usage, bounded, rates⟩ := law
  obtain ⟨u, same, moved⟩ := step_moved (short := True) s t (fun _ => range.2.2.2) h
  refine moved.queuesKept (same.fieldsInRange range) ?_ ?_ (same.queuesKept (s.queuesKept_iff.2 ⟨bounded, rates⟩)) ?_
  · have distinct := State.numbersDistinct_of_tags tags
    simpa only [State.numbersDistinct, same.slots] using distinct
  · have unrun := State.unusedUnrun_of_usage usage
    simpa only [State.unusedUnrun, same.slots, same.plans] using unrun
  · intro k c hc
    rw [State.inFlight_of_plan same.cyclePlan, same.slots]
    exact fresh k c hc

/-- Settles O19: the ranges operation by operation, and the queues and rates with them on the premise of fresh serials. -/
theorem tablesStayInRange : Obligations.TablesStayInRange := by
  refine ⟨fun s t law h => step_fieldsInRange law h, fun s t law h fresh => ?_⟩
  exact t.queuesKept_iff.1 (step_queuesKept law h fresh)

end Sys2Proof.Machine
end

section
/-! PROOF. The state right after reset keeps every law: its roster and plans are cleared and its slots are Free (R2, R21, R34). -/

namespace Sys2Proof.Machine

open Sys2Proof

theorem member_reset (m : MemberIdx) : State.reset.member m = .cleared := Vector.getElem_replicate _

theorem plans_reset (i : PlanIdx) : State.reset.plans[i] = .cleared := Vector.getElem_replicate _

theorem slots_reset (k : SlotIdx) : State.reset.slots[k] = none := Vector.getElem_replicate _

/-- With every slot Free, every law of the callouts holds. -/
theorem no_callout_reset {k : SlotIdx} {c : Callout} (h : c ∈ State.reset.slots[k]) : False := by
  rw [slots_reset] at h
  cases h

theorem reset_addressesDistinct : State.reset.addressesDistinct := by
  refine ⟨fun m h => ?_, fun m k h => ?_⟩
  · rw [member_reset] at h; cases h
  · rw [member_reset] at h; exact absurd rfl h

theorem reset_fieldsInRange : State.reset.fieldsInRange := by
  refine ⟨fun i => ?_, fun m => ?_, fun _ _ h => (no_callout_reset h).elim, fun _ h => by cases h⟩
  · rw [plans_reset]; exact Plan.inRange_cleared
  · rw [member_reset]; exact Nat.zero_le _

theorem reset_usageExact : State.reset.usageExact := by
  refine ⟨fun i => ?_, fun _ _ h => (no_callout_reset h).elim⟩
  rw [plans_reset]
  exact (List.countP_eq_zero.2 fun k _ => by rw [slots_reset]; exact Bool.false_ne_true).symm

theorem reset_tagsDistinct : State.reset.tagsDistinct :=
  ⟨by decide, fun _ _ h => (no_callout_reset h).elim, fun _ _ _ h => (no_callout_reset h).elim⟩

theorem reset_engagementLaw : State.reset.engagementLaw := by
  refine ⟨reset_tagsDistinct, fun _ _ h => (no_callout_reset h).elim, fun _ h => (by cases h), fun m n h => ?_,
    fun _ _ h => (no_callout_reset h).elim⟩
  rw [member_reset] at h
  cases h

theorem reset_queueLaw : State.reset.queueLaw :=
  ⟨reset_tagsDistinct, reset_fieldsInRange, reset_usageExact, fun _ _ h => (no_callout_reset h).elim,
    fun _ _ h => (no_callout_reset h).elim⟩

theorem reset_keyingLaw : State.reset.keyingLaw :=
  ⟨⟨trivial, Nat.zero_le _⟩, trivial, ⟨fun h => (by cases h), fun h => absurd rfl h⟩, fun _ => rfl, fun h => by cases h⟩

/-- Settles O4, law by law. -/
theorem resetStateKeepsEveryLaw : Obligations.ResetStateKeepsEveryLaw := by
  refine ⟨fun p => ?_, reset_addressesDistinct, reset_fieldsInRange, reset_usageExact, reset_engagementLaw, reset_queueLaw,
    reset_keyingLaw, rfl⟩
  cases p <;> exact Nat.zero_le _

end Sys2Proof.Machine
end

section
/-! PROOF. The reads (R18, R31, R60, R83, R105, R149, R178). -/

namespace Sys2Proof.Machine

open Sys2Proof

variable {s : State} {p : Port}

/-- With distinct tags a number names exactly the callout that holds it (R33, R37). -/
theorem State.lookup_iff (distinct : s.tagsDistinct) {n : Half} {k : SlotIdx} {c : Callout} :
    s.lookup n = some (k, c) ↔ s.slots[k] = some c ∧ c.number = n := by
  constructor
  · exact State.lookup_some
  · rintro ⟨held, rfl⟩
    exact State.lookup_of_tagsDistinct distinct held

/-- A request that any port may send is carried out by its own rule wherever requests are taken, in fault mode too (R167, R170). -/
theorem State.takeRequest_any {body : State → Taken} (h : s.takes p) :
    s.takeRequest p .any body = (body s).1.respond p (body s).2 :=
  State.takeRequest_taken h (fun h => (by cases h)) fun h => by cases h

theorem readMemberBody_member (m : MemberIdx) (s : State) : readMemberBody (byteOf m) s = done s (s.member m).fields := by
  simp only [readMemberBody, readIndex_member]

theorem readMemberBody_range {b : Byte} (h : 96 ≤ b.toNat) (s : State) : readMemberBody b s = refuse s .range := by
  simp only [readMemberBody, readIndex_none h]

theorem readPlanBody_plan (i : PlanIdx) (s : State) : readPlanBody (byteOf i) s = done s s.plans[i].fields := by
  simp only [readPlanBody, readIndex_plan]

theorem readPlanBody_range {b : Byte} (h : 16 ≤ b.toNat) (s : State) : readPlanBody b s = refuse s .range := by
  simp only [readPlanBody, readIndex_none h]

theorem State.readNamed_some {n : Half} {k : SlotIdx} {c : Callout} (h : s.lookup n = some (k, c))
    (fields : SlotIdx → Callout → List Byte) : s.readNamed n fields = done s (fields k c) := by
  simp only [State.readNamed, h]

theorem State.readNamed_none {n : Half} (h : s.lookup n = none) (fields : SlotIdx → Callout → List Byte) :
    s.readNamed n fields = refuse s .state := by
  simp only [State.readNamed, h]

/-- A request of any port whose rule answers without effect leaves nothing but the response in hand. -/
theorem exec_of_any_answer {c : Instr} {body : State → Taken} {bytes : List Byte} (h : s.takes p)
    (exec_eq : exec c s = .next (s.takeRequest p .any body)) (answer : body s = (s, bytes)) :
    exec c s = .next (s.respond p bytes) := by
  rw [exec_eq, State.takeRequest_any h, answer]

/-- Settles O9, read by read. -/
theorem readsAnswerWithoutEffect : Obligations.ReadsAnswerWithoutEffect := by
  refine ⟨fun s n k c distinct => State.lookup_iff distinct, fun s p h => ?_⟩
  refine ⟨fun m => ?_, fun i => ?_, ?_, ?_, ?_, fun n k c hl => ⟨?_, ?_, ?_⟩, fun b hb => ?_, fun b hb => ?_,
    fun n hl => ⟨?_, ?_, ?_⟩⟩
  · exact exec_of_any_answer h rfl (readMemberBody_member m s)
  · exact exec_of_any_answer h rfl (readPlanBody_plan i s)
  · exact exec_of_any_answer h rfl rfl
  · exact exec_of_any_answer h rfl rfl
  · exact exec_of_any_answer h rfl rfl
  · exact exec_of_any_answer h rfl (State.readNamed_some hl _)
  · exact exec_of_any_answer h rfl (State.readNamed_some hl _)
  · exact exec_of_any_answer h rfl (State.readNamed_some hl _)
  · exact exec_of_any_answer h rfl (readMemberBody_range hb s)
  · exact exec_of_any_answer h rfl (readPlanBody_range hb s)
  · exact exec_of_any_answer h rfl (State.readNamed_none hl _)
  · exact exec_of_any_answer h rfl (State.readNamed_none hl _)
  · exact exec_of_any_answer h rfl (State.readNamed_none hl _)

end Sys2Proof.Machine
end

section
/-! PROOF. The roster's requests (R10, R15 to R17). -/

namespace Sys2Proof.Machine

open Sys2Proof

variable {s : State} {p : Port}

/-- The availability that a byte of 0 or 1 names (R188). -/
def availabilityOf (b : Byte) : Availability := if b = 0 then .available else .unavailable

theorem byte_zero_or_one {b : Byte} (h : b.toNat < 2) : b = 0 ∨ b = 1 := by
  rcases Nat.lt_succ_iff_lt_or_eq.1 h with h0 | h1
  · exact .inl (BitVec.eq_of_toNat_eq (Nat.lt_one_iff.1 h0))
  · exact .inr (BitVec.eq_of_toNat_eq h1)

/-- A byte of 0 or 1 reads as the availability whose code it is. -/
theorem readAvailability_some {b : Byte} (h : b.toNat < 2) :
    readAvailability b = some (availabilityOf b) ∧ (availabilityOf b).code = b := by
  rcases byte_zero_or_one h with rfl | rfl <;> exact ⟨rfl, rfl⟩

theorem readAvailability_none {b : Byte} (h : 2 ≤ b.toNat) : readAvailability b = none := by
  have h0 : b ≠ 0 := by rintro rfl; exact absurd h (by decide)
  have h1 : b ≠ 1 := by rintro rfl; exact absurd h (by decide)
  simp only [readAvailability, h0, h1, if_false]

/-! ### Set availability (R10) -/

theorem setAvailabilityBody_range {member value : Byte} (h : 96 ≤ member.toNat ∨ 2 ≤ value.toNat) :
    setAvailabilityBody p member value s = refuse s .range := by
  unfold setAvailabilityBody
  split
  · rename_i m v hm hv
    rcases h with h | h
    · rw [readIndex_none h] at hm; cases hm
    · rw [readAvailability_none h] at hv; cases hv
  · rfl

theorem setAvailabilityBody_member {m : MemberIdx} {value : Byte} (h : value.toNat < 2) :
    setAvailabilityBody p (byteOf m) value s =
      if (s.member m).inUse then
        done ((s.setMember m { s.member m with availability := availabilityOf value, source := .port p }).raiseNotice s.stations
          ⟨.availability, 0, byteOf m, value, portCode p, 0, 0⟩) []
      else refuse s .state := by
  obtain ⟨reads, code⟩ := readAvailability_some h
  simp only [setAvailabilityBody, readIndex_member, reads, availabilityNotice, code]
  rfl

/-- Settles O14: the range checks, the test of In use, and the value stored with its notice. -/
theorem setAvailabilityStoresAndTells : Obligations.SetAvailabilityStoresAndTells := by
  intro s p h
  have taken : ∀ member value, exec (.setAvailability p member value) s =
      .next ((setAvailabilityBody p member value s).1.respond p (setAvailabilityBody p member value s).2) :=
    fun member value => congrArg Host.Outcome.next (State.takeRequest_any h)
  refine ⟨fun member value out => ?_, fun m value known => ⟨fun unused => ?_, fun used => ?_⟩⟩
  · rw [taken, setAvailabilityBody_range out]
    rfl
  · rw [taken, setAvailabilityBody_member known, unused]
    rfl
  · rw [taken, setAvailabilityBody_member known, used]
    rfl

/-! ### Write member (R15 to R17) -/

/-- The test of R16's check 3 on the pager fields of each kind. -/
theorem readPager_none {kind toneGroup : Byte} {address : Three} {groups : Half}
    (h : 2 < kind.toNat ∨ (kind = 1 ∧ ¬(1 ≤ address.toNat ∧ address.toNat ≤ 1048575)) ∨ (kind = 2 ∧ 15 < toneGroup.toNat)) :
    readPager kind address toneGroup groups = none := by
  rcases h with h | ⟨rfl, h⟩ | ⟨rfl, h⟩
  · have h0 : kind ≠ 0 := by rintro rfl; exact absurd h (by decide)
    have h1 : kind ≠ 1 := by rintro rfl; exact absurd h (by decide)
    have h2 : kind ≠ 2 := by rintro rfl; exact absurd h (by decide)
    simp only [readPager, h0, h1, h2, if_false]
  · exact if_neg h
  · have out : readIndex 16 toneGroup = none := readIndex_none h
    show (readIndex 16 toneGroup).map Pager.tone = none
    rw [out]
    rfl

theorem readPager_digital {toneGroup : Byte} {address : Three} {groups : Half} (low : 1 ≤ address.toNat)
    (high : address.toNat ≤ 1048575) :
    readPager 1 address toneGroup groups = some (.digital (address.setWidth 20) (groups.setWidth 12)) := by
  have one : (1 : Byte) ≠ 0 := by decide
  simp only [readPager, one, if_false, if_true, low, high, and_self]
  rfl

theorem readPager_tone {address : Three} {groups : Half} (g : ToneGroup) :
    readPager 2 address (byteOf g) groups = some (.tone g) := by
  show (readIndex 16 (byteOf g)).map Pager.tone = _
  rw [readIndex_byteOf (by decide) g]
  rfl

/-- A member holds an address exactly when it is in use and Digital with that address (R4). -/
theorem Member.address_eq_some {x : Member} {a : BitVec 20} :
    x.address = some a ↔ x.inUse = true ∧ ∃ g, x.pager = .digital a g := by
  unfold Member.address
  cases x.pager <;> cases x.inUse <;> simp

/-- What a written record answers: Done, with the notice of a change (R12, R17). -/
theorem State.storeMember_eq (m : MemberIdx) (x : Member) : s.storeMember m x =
    if x.availability = (s.member m).availability then s.setMember m x
    else (s.setMember m x).raiseNotice s.stations ⟨.availability, 0, byteOf m, x.availability.code, x.source.code, 0, 0⟩ := rfl

section Body

variable {m : MemberIdx} {inUse kind toneGroup quals eta availability : Byte} {address : Three} {groups : Half}

theorem writeMemberBody_index {member : Byte} (h : 96 ≤ member.toNat) :
    writeMemberBody p member inUse kind address toneGroup quals groups eta availability s = refuse s .range := by
  simp only [writeMemberBody, readIndex_none h]

theorem writeMemberBody_engaged (h : (s.member m).engagement ≠ .free) :
    writeMemberBody p (byteOf m) inUse kind address toneGroup quals groups eta availability s = refuse s .state := by
  simp only [writeMemberBody, readIndex_member, ne_eq, h, not_false_eq_true, if_true]

variable (free : (s.member m).engagement = .free)
include free

theorem writeMemberBody_clear :
    writeMemberBody p (byteOf m) 0 kind address toneGroup quals groups eta availability s =
      done (s.storeMember m .cleared) [] := by
  simp only [writeMemberBody, readIndex_member, free, ne_eq, not_true_eq_false, if_false, if_true]

theorem writeMemberBody_range (used : inUse ≠ 0)
    (h : inUse ≠ 1 ∨ readAvailability availability = none ∨ readPager kind address toneGroup groups = none) :
    writeMemberBody p (byteOf m) inUse kind address toneGroup quals groups eta availability s = refuse s .range := by
  simp only [writeMemberBody, readIndex_member, free, ne_eq, not_true_eq_false, if_false, used]
  split
  · rfl
  · rename_i one
    split
    · rename_i ha hp
      rcases h with h | h | h
      · exact absurd h one
      · rw [h] at ha; cases ha
      · rw [h] at hp; cases hp
    · rfl

theorem writeMemberBody_stored {v : Availability} {pager : Pager} (ha : readAvailability availability = some v)
    (hp : readPager kind address toneGroup groups = some pager) :
    writeMemberBody p (byteOf m) 1 kind address toneGroup quals groups eta availability s =
      if s.addressTaken m pager then refuse s .state
      else done (s.storeMember m
        ⟨true, pager, readQuals quals, saturate 30 eta.toNat, v, .port p, .free, (s.member m).lastHeard⟩) [] := by
  have one : (1 : Byte) ≠ 0 := by decide
  simp only [writeMemberBody, readIndex_member, free, ne_eq, not_true_eq_false, if_false, one, ha, hp]

end Body

/-- Settles O15: the checks in the order of R16, the clearing and the replacement. -/
theorem writeMemberReplacesTheRecord : Obligations.WriteMemberReplacesTheRecord := by
  intro s p inUse kind address toneGroup quals groups eta availability h
  dsimp only
  refine ⟨fun dispatch member => ?_, fun station => ?_⟩
  · have refused : s.gate p .stationOnly = some .cls := by
      simp only [State.gate, h.2, dispatch]
      rfl
    have stopped := State.takeRequest_stopped (body := writeMemberBody p member inUse kind address toneGroup quals groups eta
      availability) h.1 refused
    exact congrArg Host.Outcome.next stopped
  have taken : ∀ member, exec (.writeMember p member inUse kind address toneGroup quals groups eta availability) s =
      .next ((writeMemberBody p member inUse kind address toneGroup quals groups eta availability s).1.respond p
        (writeMemberBody p member inUse kind address toneGroup quals groups eta availability s).2) :=
    fun member => congrArg Host.Outcome.next (State.takeRequest_taken h (fun _ => station) fun h => by cases h)
  refine ⟨fun member out => ?_, fun m => ⟨fun engaged => ?_, fun free => ⟨fun unused => ?_, fun used out => ?_,
    fun used known digital low high held => ?_, fun pager used known fits => ?_⟩⟩⟩
  · rw [taken, writeMemberBody_index out]
    rfl
  · rw [taken, writeMemberBody_engaged engaged]
    rfl
  · subst unused
    rw [taken, writeMemberBody_clear free, State.storeMember_eq]
    rfl
  · rw [taken, writeMemberBody_range free used]
    · rfl
    · rcases out with out | out | out
      · exact .inl out
      · exact .inr (.inl (readAvailability_none out))
      · exact .inr (.inr (readPager_none out))
  · subst used digital
    obtain ⟨k, g, different, inUse, pager⟩ := held
    have addressTaken : s.addressTaken m (.digital (address.setWidth 20) (groups.setWidth 12)) = true :=
      State.addressTaken_digital.2 ⟨k, different, Member.address_eq_some.2 ⟨inUse, g, pager⟩⟩
    rw [taken, writeMemberBody_stored free (readAvailability_some (Nat.lt_succ_of_le known)).1 (readPager_digital low high),
      addressTaken]
    rfl
  · subst used
    obtain ⟨reads, code⟩ := readAvailability_some (Nat.lt_succ_of_le known)
    have carried : readPager kind address toneGroup groups = some pager ∧ s.addressTaken m pager = false := by
      rcases fits with ⟨rfl, rfl⟩ | ⟨rfl, low, high, rfl, apart⟩ | ⟨rfl, g, rfl, rfl⟩
      · exact ⟨rfl, rfl⟩
      · refine ⟨readPager_digital low high, ?_⟩
        rw [Bool.eq_false_iff]
        intro held
        obtain ⟨k, different, address⟩ := State.addressTaken_digital.1 held
        obtain ⟨inUse, g, pager⟩ := Member.address_eq_some.1 address
        exact apart k g different inUse pager
      · exact ⟨readPager_tone g, rfl⟩
    rw [taken, writeMemberBody_stored free reads carried.1, carried.2, State.storeMember_eq, code]
    rfl

end Sys2Proof.Machine
end

section
/-! PROOF. Reset, its end and the end of the self-test (R180, R181). -/

namespace Sys2Proof.Machine

open Sys2Proof

variable {s : State}

/-! ### Tables at their reset contents (R2, R21, R34) -/

theorem member_of_roster_cleared (h : s.roster = Vector.replicate 96 .cleared) (m : MemberIdx) : s.member m = .cleared := by
  unfold State.member
  rw [h]
  exact Vector.getElem_replicate _

theorem plan_of_plans_cleared (h : s.plans = Vector.replicate 16 .cleared) (i : PlanIdx) :
    s.plans[i].template = ⟨0, 0, 0, 0, 0⟩ ∧ s.plans[i].usage = 0 ∧ ∀ j : StepIdx, s.plans[i].steps[j] = .finish := by
  have cleared : s.plans[i] = .cleared := by
    rw [h]
    exact Vector.getElem_replicate _
  rw [cleared]
  exact ⟨rfl, rfl, fun j => Vector.getElem_replicate _⟩

theorem slot_of_slots_free (h : s.slots = Vector.replicate 8 none) (k : SlotIdx) : s.slots[k] = none := by
  rw [h]
  exact Vector.getElem_replicate _

/-! ### The fault mode (R181) -/

theorem anyFailed_iff {r : GroupResults} : anyFailed r = true ↔
    r.roster = true ∨ r.callouts = true ∨ r.plansAndTones = true ∨ r.noticeQueues = true := by
  simp only [anyFailed, Bool.or_eq_true, or_assoc]

/-! ### The three events -/

theorem exec_reset_ports (p : Port) {t : State} (h : exec .reset s = .next t) :
    t.port p = { s.port p with frame := .closed } ∧ t.attention p = false := by
  cases h
  exact ⟨by cases p <;> rfl, rfl⟩

theorem exec_resetEnd_held (pins : ResetPins) (held : s.sup.held = true) :
    exec (.resetEnd pins) s = .next (.afterReset pins s.inputs s.pending s.edgesRead) :=
  congrArg Host.Outcome.next (if_pos held)

theorem exec_selfTestEnd_testing (results : GroupResults) (held : s.sup.held = false) (testing : s.testing = true) :
    exec (.selfTestEnd results) s =
      .next { s.groupsCleared with sup := { s.sup with selfTest := .ended results } } := by
  have ends : (!s.sup.held && s.testing) = true := by rw [held, testing]; rfl
  exact congrArg Host.Outcome.next (if_pos ends)

/-- Settles O59, one event after the other. -/
theorem resetClearsAndTheSelfTestEnds : Obligations.ResetClearsAndTheSelfTestEnds := by
  refine fun s => ⟨?reset, fun pins held => ?resetEnd, fun results held testing => ?selfTestEnd⟩
  case reset =>
    exact ⟨_, rfl, rfl, rfl, rfl, fun p => exec_reset_ports p rfl, rfl⟩
  case resetEnd =>
    exact ⟨_, exec_resetEnd_held pins held, rfl, rfl, member_of_roster_cleared rfl, plan_of_plans_cleared rfl,
      slot_of_slots_free rfl, rfl, rfl, rfl,
      ⟨rfl, rfl, rfl, rfl, rfl, rfl, rfl, rfl, rfl, fun _ => Vector.getElem_replicate _, rfl, rfl,
        fun _ => Vector.getElem_replicate _⟩,
      rfl, ⟨fun _ => Vector.getElem_replicate _, rfl, rfl⟩, rfl, rfl⟩
  case selfTestEnd =>
    exact ⟨_, exec_selfTestEnd_testing results held testing, rfl, anyFailed_iff, member_of_roster_cleared rfl,
      plan_of_plans_cleared rfl, slot_of_slots_free rfl, rfl, fun _ => Vector.getElem_replicate _,
      fun _ => Vector.getElem_replicate _, fun p => by cases p <;> rfl, rfl, rfl, rfl, rfl, rfl, rfl, rfl⟩

end Sys2Proof.Machine
end

section
/-! PROOF. The words that a reply cell brings (R153 to R161, R187). -/

namespace Sys2Proof.Machine

open Sys2Proof

variable {s : State} {k : MemberIdx} {w : BitVec 24}

/-! ### The end of a cell in the cycle (R127) -/

theorem cellEndingAt_iff {n : Nat} : cellEndingAt n = some k ↔ n = 18000 + 60 * (k.val + 1) := by
  have inTable := k.isLt
  unfold cellEndingAt
  rw [show Config.replyStart = 18000 from rfl, show Config.planPointAt = 23760 from rfl, show Config.cellLength = 60 from rfl]
  split
  · dsimp only
    split
    · rw [Option.some.injEq, Fin.ext_iff]
      dsimp only
      omega
    · exact iff_of_false (by rintro ⟨⟩) (by omega)
  · exact iff_of_false (by rintro ⟨⟩) (by omega)

theorem endingCell_iff :
    s.endingCell = some k ↔ s.rx.carrier ≠ .unsampled ∧ s.channel.pos = .cycle (18000 + 60 * (k.val + 1)) := by
  unfold State.endingCell
  split
  · rename_i n at_n
    rw [at_n]
    split
    · rename_i unsampled
      exact ⟨fun h => (by cases h), fun h => absurd unsampled h.1⟩
    · rename_i sampled
      rw [cellEndingAt_iff, CyclePos.cycle.injEq]
      exact ⟨fun h => ⟨sampled, h⟩, And.right⟩
  · rename_i absent
    exact ⟨fun h => (by cases h), fun h => absurd h.2 (absent _)⟩

/-! ### The fields of a word as numbers (R187) -/

theorem answerField_toNat : (answerField w).toNat = w.toNat / 4194304 := by
  have := w.isLt
  simp only [answerField, BitVec.extractLsb'_toNat, Nat.shiftRight_eq_div_pow]
  omega

theorem etaField_toNat : (etaField w).toNat = w.toNat / 131072 % 32 := by
  simp only [etaField, BitVec.extractLsb'_toNat, Nat.shiftRight_eq_div_pow]

theorem tagField_toNat : (tagField w).toNat = w.toNat / 2048 % 64 := by
  simp only [tagField, BitVec.extractLsb'_toNat, Nat.shiftRight_eq_div_pow]

theorem checkField_toNat : (checkField w).toNat = w.toNat / 16 % 128 := by
  simp only [checkField, BitVec.extractLsb'_toNat, Nat.shiftRight_eq_div_pow]

theorem crcField_toNat : (crcField w).toNat = w.toNat % 16 := by
  simp only [crcField, BitVec.extractLsb'_toNat, Nat.shiftRight_eq_div_pow, Nat.pow_zero, Nat.div_one]

theorem burstEta_eq :
    burstEta (etaField w) = if w.toNat / 131072 % 32 = 31 then none else some (w.toNat / 131072 % 32) := by
  have absent : etaField w = 31 ↔ w.toNat / 131072 % 32 = 31 := by
    rw [← etaField_toNat]
    exact BitVec.toNat_eq
  simp only [burstEta, absent, etaField_toNat]

theorem tagOf_eq_tagField {number : Half} : tagOf number = tagField w ↔ number.toNat % 64 = w.toNat / 2048 % 64 := by
  rw [← tagField_toNat, BitVec.toNat_eq, tagOf, BitVec.toNat_setWidth]

theorem crcChecks_iff : crcChecks w = true ↔ (crc4 ((bitsOf w).take 20)).toNat = w.toNat % 16 := by
  rw [← crcField_toNat, crcChecks, decide_eq_true_eq, BitVec.toNat_eq]

/-- The tests of R159 on a member's record. -/
theorem Member.answers_iff {x : Member} : x.answers w = true ↔
    x.inUse = true ∧ ∃ a g, x.pager = .digital a g ∧ a.toNat % 128 = w.toNat / 16 % 128 := by
  have checks : ∀ a : BitVec 20, a.setWidth 7 = checkField w ↔ a.toNat % 128 = w.toNat / 16 % 128 := fun a => by
    rw [← checkField_toNat, BitVec.toNat_eq, BitVec.toNat_setWidth]
  unfold Member.answers
  split
  · rename_i a holds
    obtain ⟨inUse, g, pager⟩ := Member.address_eq_some.1 holds
    rw [decide_eq_true_eq, checks]
    refine ⟨fun h => ⟨inUse, a, g, pager, h⟩, ?_⟩
    rintro ⟨-, b, g', pager', h⟩
    rw [pager] at pager'
    cases pager'
    exact h
  · rename_i none
    refine ⟨fun h => (by cases h), ?_⟩
    rintro ⟨inUse, a, g, pager, -⟩
    rw [Member.address_eq_some.2 ⟨inUse, g, pager⟩] at none
    cases none

/-! ### The decision (R153, R154, R157 to R159) -/

/-- The word decoded from the cell buffer (R156). -/
def State.heardWord (s : State) : BitVec 24 := (decodeBurst s.rx.buffer.toList).2

/-- The tests that an accepted cell passes, stage by stage (R153). -/
def State.accepts (s : State) (k : MemberIdx) : Prop :=
  s.rx.carrier = .present ∧ (s.rx.buffer.toList.countP fun v => v = .erased) ≤ 16 ∧
    (decodeBurst s.rx.buffer.toList).1 ≤ s.channel.distanceLimit.toNat ∧
    (crc4 ((bitsOf s.heardWord).take 20)).toNat = s.heardWord.toNat % 16 ∧
    (s.member k).inUse = true ∧
    ∃ a g, (s.member k).pager = .digital a g ∧ a.toNat % 128 = s.heardWord.toNat / 16 % 128

theorem decideCell_empty (h : s.rx.carrier ≠ .present) : s.decideCell k = .empty := if_pos h

/-- With a carrier the decision is Accepted or Rejected, by the tests. -/
theorem decideCell_present (present : s.rx.carrier = .present) :
    s.accepts k ∧ s.decideCell k = .accepted s.heardWord ∨ ¬s.accepts k ∧ s.decideCell k = .rejected := by
  unfold State.decideCell
  rw [if_neg (not_not.2 present)]
  split
  · rename_i erased
    exact .inr ⟨fun ⟨_, few, _⟩ => Nat.not_le.2 erased few, rfl⟩
  rename_i few
  dsimp only
  split
  · rename_i far
    exact .inr ⟨fun ⟨_, _, near, _⟩ => Nat.not_le.2 far near, rfl⟩
  rename_i near
  split
  · rename_i fails
    refine .inr ⟨fun ⟨_, _, _, crc, _⟩ => ?_, rfl⟩
    have checks : crcChecks (decodeBurst s.rx.buffer.toList).2 = true := crcChecks_iff.2 crc
    rw [checks] at fails
    cases fails
  rename_i crc
  split
  · rename_i fails
    refine .inr ⟨fun ⟨_, _, _, _, record⟩ => ?_, rfl⟩
    have answers : (s.member k).answers (decodeBurst s.rx.buffer.toList).2 = true := Member.answers_iff.2 record
    rw [answers] at fails
    cases fails
  rename_i answers
  rw [Bool.not_eq_true, Bool.not_eq_false'] at crc answers
  exact .inl ⟨⟨present, Nat.not_lt.1 few, Nat.not_lt.1 near, crcChecks_iff.1 crc, Member.answers_iff.1 answers⟩, rfl⟩

theorem decideCell_accepted (h : s.accepts k) : s.decideCell k = .accepted s.heardWord := by
  rcases decideCell_present h.1 with ⟨-, accepted⟩ | ⟨not, -⟩
  · exact accepted
  · exact absurd h not

theorem decideCell_rejected (present : s.rx.carrier = .present) (h : ¬s.accepts k) : s.decideCell k = .rejected := by
  rcases decideCell_present present with ⟨accepts, -⟩ | ⟨-, rejected⟩
  · exact absurd accepts h
  · exact rejected

/-- A cell's decision leaves the state alone, counts a rejected cell, or accepts the word (R153, R162). -/
theorem settleCell_accepted (h : s.accepts k) : s.settleCell k = s.accept k s.heardWord := by
  simp only [State.settleCell, decideCell_accepted h]

theorem settleCell_empty (h : s.rx.carrier ≠ .present) : s.settleCell k = s := by
  simp only [State.settleCell, decideCell_empty h]

theorem settleCell_rejected (present : s.rx.carrier = .present) (h : ¬s.accepts k) :
    s.settleCell k = { s with rx := { s.rx with rejected := s.rx.rejected + 1 } } := by
  simp only [State.settleCell, decideCell_rejected present h]

/-! ### What an accepted word status (R160) -/

/-- The availability that a word's answer reports, if it is a status reply. -/
def SaysStatus (w : BitVec 24) (v : Availability) : Prop :=
  w.toNat / 4194304 = 2 ∧ v = .available ∨ w.toNat / 4194304 = 3 ∧ v = .unavailable

/-- A word's answer is a callout reply or a status reply. -/
theorem answer_cases (w : BitVec 24) : (w.toNat / 4194304 = 0 ∨ w.toNat / 4194304 = 1) ∨ ∃ v, SaysStatus w v := by
  have := w.isLt
  rcases (by omega : w.toNat / 4194304 = 0 ∨ w.toNat / 4194304 = 1 ∨ w.toNat / 4194304 = 2 ∨ w.toNat / 4194304 = 3) with
    h | h | h | h
  · exact .inl (.inl h)
  · exact .inl (.inr h)
  · exact .inr ⟨.available, .inl ⟨h, rfl⟩⟩
  · exact .inr ⟨.unavailable, .inr ⟨h, rfl⟩⟩

theorem SaysStatus.two_le {v : Availability} (h : SaysStatus w v) : 2 ≤ w.toNat / 4194304 := by
  rcases h with ⟨h, -⟩ | ⟨h, -⟩ <;> omega

theorem SaysStatus.not_callout {v : Availability} (h : SaysStatus w v) :
    ¬(w.toNat / 4194304 = 0 ∨ w.toNat / 4194304 = 1) := by
  have := h.two_le
  omega

theorem SaysStatus.unique {v u : Availability} (h : SaysStatus w v) (g : SaysStatus w u) : u = v := by
  rcases h with ⟨two, rfl⟩ | ⟨three, rfl⟩
  · exact (g.resolve_right fun g => absurd (two.symm.trans g.1) (by decide)).2
  · exact (g.resolve_left fun g => absurd (three.symm.trans g.1) (by decide)).2

/-- The member of the cell with its last heard set (R14). -/
def State.heard (s : State) (k : MemberIdx) : State := s.setMember k { s.member k with lastHeard := some s.channel.cycle }

theorem accept_attending (h : w.toNat / 4194304 = 0) :
    s.accept k w = (s.heard k).handOn k .attending (burstEta (etaField w)) (tagField w) := by
  simp only [State.accept, answerField_toNat, h]
  rfl

theorem accept_declined (h : w.toNat / 4194304 = 1) : s.accept k w = (s.heard k).handOn k .declined none (tagField w) := by
  simp only [State.accept, answerField_toNat, h]
  rfl

theorem accept_status {v : Availability} (h : SaysStatus w v) : s.accept k w = (s.heard k).statusReply k v := by
  rcases h with ⟨h, rfl⟩ | ⟨h, rfl⟩ <;>
  · simp only [State.accept, answerField_toNat, h]
    rfl

/-- A callout reply is handed on after last heard is set. -/
theorem accept_callout (h : w.toNat / 4194304 = 0 ∨ w.toNat / 4194304 = 1) :
    ∃ a eta, s.accept k w = (s.heard k).handOn k a eta (tagField w) ∧ ∀ n,
      (⟨k, a, eta, n⟩ : HandOff) = if w.toNat / 4194304 = 0 then
        ⟨k, .attending, if w.toNat / 131072 % 32 = 31 then none else some (w.toNat / 131072 % 32), n⟩
      else ⟨k, .declined, none, n⟩ := by
  rcases h with h | h
  · exact ⟨_, _, accept_attending h, fun n => by rw [if_pos h, burstEta_eq]⟩
  · exact ⟨_, _, accept_declined h, fun n => by rw [if_neg (by omega)]⟩

end Sys2Proof.Machine
end

section
/-! PROOF. The handing on of an accepted word, and the end of a cell (R11, R12, R128, R153, R161, R162). -/

namespace Sys2Proof.Machine

open Sys2Proof

variable {s : State} {k : MemberIdx} {w : BitVec 24}

/-! ### A callout reply handed on (R161) -/

variable {a : Answer} {eta : Option Nat} {tag : BitVec 6}

theorem handOn_frame : { s.handOn k a eta tag with handOffs := s.handOffs } = s := by
  unfold State.handOn
  split <;> rfl

/-- The reply goes to the Active callout with its tag, of which there is at most one (R33). -/
theorem handOn_matched (distinct : s.tagsDistinct) {j : SlotIdx} {c : Callout} (held : s.slots[j] = some c)
    (active : c.isActive = true) (tagged : tagOf c.number = tag) :
    (s.handOn k a eta tag).handOffs = s.handOffs ++ [⟨k, a, eta, c.number⟩] := by
  have wanted : (c.isActive && tagOf c.number = tag) = true := by simp only [active, tagged, decide_true, Bool.and_self]
  have found : s.findSlot (fun c => c.isActive && tagOf c.number = tag) = some (j, c) := by
    refine State.findSlot_eq held wanted fun i before d other => Bool.eq_false_iff.2 fun matched => ?_
    simp only [Bool.and_eq_true, decide_eq_true_eq] at matched
    exact absurd (distinct.2.2 i j d other c held (.inl (matched.2.trans tagged.symm))) (Fin.ne_of_lt before)
  simp only [State.handOn, found]

theorem handOn_unmatched (none : ∀ j : SlotIdx, ∀ c ∈ s.slots[j], c.isActive = true → tagOf c.number ≠ tag) :
    (s.handOn k a eta tag).handOffs = s.handOffs := by
  have missing : s.findSlot (fun c => c.isActive && tagOf c.number = tag) = Option.none := by
    refine State.findSlot_none.2 fun j c held => Bool.eq_false_iff.2 fun matched => ?_
    simp only [Bool.and_eq_true, decide_eq_true_eq] at matched
    exact none j c held matched.1 matched.2
  simp only [State.handOn, missing]

/-! ### A status reply taken by the roster (R11, R12) -/

theorem statusReply_same {v : Availability} (h : (s.member k).availability = v) : s.statusReply k v = s := if_pos h

theorem statusReply_changed {v : Availability} (h : (s.member k).availability ≠ v) :
    s.statusReply k v = (s.setMember k { s.member k with availability := v, source := .pager }).raiseNotice s.stations
      ⟨.availability, 0, byteOf k, v.code, 4, 0, 0⟩ := if_neg h

/-- Notices in ports that are alike leave ports that are alike. -/
theorem raiseNotice_ports_congr {t u : State} (ports : t.ports = u.ports) (sup : t.sup = u.sup) (route : PortSet) (n : Notice) :
    (t.raiseNotice route n).ports = (u.raiseNotice route n).ports := by
  simp only [State.raiseNotice, State.testing, ports, sup]

/-! ### The cell decided -/

/-- The count of rejected cells that the cell's end leaves (R162). -/
def State.counts (s : State) (k : MemberIdx) (n : Nat) : Prop :=
  (s.accepts k ∨ s.rx.carrier ≠ .present) ∧ n = s.rx.rejected ∨
    ¬s.accepts k ∧ s.rx.carrier = .present ∧ n = s.rx.rejected + 1

/-- The state with the notice of the availability that the cell's end changes, if it changes one (R12). -/
def State.tellsStatus (s : State) (k : MemberIdx) (told : State) : Prop :=
  (∃ v, (s.accepts k ∧ SaysStatus s.heardWord v) ∧ v ≠ (s.member k).availability ∧
      told = s.raiseNotice s.stations ⟨.availability, 0, byteOf k, v.code, 4, 0, 0⟩) ∨
    (∀ v, s.accepts k ∧ SaysStatus s.heardWord v → v = (s.member k).availability) ∧ told = s

/-- What an accepted word leaves: the receiver and the ports by a callout reply, with last heard and the hand-offs (R14, R161). -/
theorem accept_callout_frame (h : w.toNat / 4194304 = 0 ∨ w.toNat / 4194304 = 1) :
    { s.accept k w with handOffs := s.handOffs } = s.heard k := by
  obtain ⟨a, eta, accepted, -⟩ := accept_callout h
  rw [accepted]
  exact handOn_frame

theorem accept_status_frame {v : Availability} (h : SaysStatus w v) :
    { s.accept k w with roster := s.roster, ports := s.ports } = s := by
  rw [accept_status h]
  unfold State.statusReply
  split <;> rfl

/-- An accepted cell leaves the receiver to its clearing (R153). -/
theorem accept_rx : (s.accept k w).rx = s.rx := by
  rcases answer_cases w with callout | ⟨v, status⟩
  · have rx := congrArg State.rx (accept_callout_frame (s := s) (k := k) callout)
    exact rx
  · have rx := congrArg State.rx (accept_status_frame (s := s) (k := k) status)
    exact rx

theorem heard_member : (s.heard k).member k = { s.member k with lastHeard := some s.channel.cycle } :=
  State.member_setMember_self _ _ _

/-- The record after a status reply: last heard, the availability reported, and the source Pager where it differed (R11). -/
theorem accept_status_member {v : Availability} (h : SaysStatus w v) : (s.accept k w).member k =
    { s.member k with
      lastHeard := some s.channel.cycle
      availability := v
      source := if (s.member k).availability = v then (s.member k).source else .pager } := by
  rw [accept_status h]
  have record := heard_member (s := s) (k := k)
  by_cases same : (s.member k).availability = v
  · rw [statusReply_same (by rw [record]; exact same), record, if_pos same, ← same]
  · rw [statusReply_changed (by rw [record]; exact same), if_neg same]
    have stored := State.member_setMember_self (s.heard k) k
      { (s.heard k).member k with availability := v, source := .pager }
    rw [record] at stored ⊢
    exact stored

theorem accept_status_ports {v : Availability} (h : SaysStatus w v) : (s.accept k w).ports =
    if v = (s.member k).availability then s.ports
    else (s.raiseNotice s.stations ⟨.availability, 0, byteOf k, v.code, 4, 0, 0⟩).ports := by
  rw [accept_status h]
  have record := heard_member (s := s) (k := k)
  by_cases same : (s.member k).availability = v
  · rw [statusReply_same (by rw [record]; exact same), if_pos same.symm]
    rfl
  · rw [statusReply_changed (by rw [record]; exact same), if_neg fun e => same e.symm]
    exact raiseNotice_ports_congr rfl rfl _ _

/-! ### The cell decided -/

theorem settleCell_rx : (s.settleCell k).rx = { s.rx with rejected := (s.settleCell k).rx.rejected } ∧
    s.counts k (s.settleCell k).rx.rejected := by
  by_cases accepts : s.accepts k
  · rw [settleCell_accepted accepts, accept_rx]
    exact ⟨rfl, .inl ⟨.inl accepts, rfl⟩⟩
  by_cases present : s.rx.carrier = .present
  · rw [settleCell_rejected present accepts]
    exact ⟨rfl, .inr ⟨accepts, present, rfl⟩⟩
  · rw [settleCell_empty present]
    exact ⟨rfl, .inl ⟨.inr present, rfl⟩⟩

/-- A cell that is not accepted touches the receiver alone (R153, R157). -/
theorem settleCell_unaccepted (h : ¬s.accepts k) : { s.settleCell k with rx := s.rx } = s := by
  by_cases present : s.rx.carrier = .present
  · rw [settleCell_rejected present h]
  · rw [settleCell_empty present]

theorem settleCell_told : ∃ told : State, s.tellsStatus k told ∧ (s.settleCell k).ports = told.ports ∧ told.sup = s.sup := by
  by_cases accepts : s.accepts k
  · rw [settleCell_accepted accepts]
    rcases answer_cases s.heardWord with callout | ⟨v, status⟩
    · have ports := congrArg State.ports (accept_callout_frame (s := s) (k := k) callout)
      exact ⟨s, .inr ⟨fun v h => absurd callout h.2.not_callout, rfl⟩, ports, rfl⟩
    · rw [accept_status_ports status]
      by_cases same : v = (s.member k).availability
      · rw [if_pos same]
        exact ⟨s, .inr ⟨fun u h => (status.unique h.2).trans same, rfl⟩, rfl, rfl⟩
      · rw [if_neg same]
        exact ⟨_, .inl ⟨v, ⟨accepts, status⟩, same, rfl⟩, rfl, rfl⟩
  · have ports := congrArg State.ports (settleCell_unaccepted accepts)
    exact ⟨s, .inr ⟨fun v h => absurd h.1 accepts, rfl⟩, ports, rfl⟩

/-! ### The end of the cell (R128, R153) -/

theorem closeSection_frame : { s.closeSection with ports := s.ports } = { s with
    rx := { s.rx with rejected := 0 }, channel := { s.channel with quality := s.channel.qualityOf s.rx.rejected } } := by
  unfold State.closeSection
  dsimp only
  split <;> rfl

theorem closeSection_ports : s.closeSection.ports =
    if s.channel.qualityOf s.rx.rejected = s.channel.quality then s.ports
    else (s.raiseNotice ⟨true, true, true⟩ ⟨.receptionQuality, 0, 255, (s.channel.qualityOf s.rx.rejected).code,
      byteOf s.rx.rejected, s.channel.cycle.extractLsb' 8 8, s.channel.cycle.extractLsb' 0 8⟩).ports := by
  unfold State.closeSection
  dsimp only
  split <;> rfl

/-- The cell's end keeps what the decision leaves, but for the receiver, the quality and its notice. -/
theorem endCell_frame : { s.endCell k with rx := s.rx, channel := s.channel, ports := s.ports } =
    { s.settleCell k with rx := s.rx, channel := s.channel, ports := s.ports } := by
  unfold State.endCell
  dsimp only
  split
  · have closed := congrArg (fun u : State => { u with rx := s.rx, channel := s.channel, ports := s.ports })
      (closeSection_frame (s := { s.settleCell k with rx := (s.settleCell k).rx.clearedCell }))
    exact closed
  · rfl

theorem endCell_before (h : k ≠ 95) : s.endCell k = { s.settleCell k with rx := (s.settleCell k).rx.clearedCell } := if_neg h

theorem endCell_last : s.endCell 95 =
    { s.settleCell 95 with rx := (s.settleCell 95).rx.clearedCell }.closeSection := rfl

theorem settleCell_channel : (s.settleCell k).channel = s.channel ∧ (s.settleCell k).sup = s.sup := by
  have frame := (s.settleCell_frame k).1
  have channel := congrArg State.channel frame
  have sup := congrArg State.sup frame
  exact ⟨channel, sup⟩

theorem endCell_cleared :
    (s.endCell k).rx.buffer = Vector.replicate 56 .unfilled ∧ (s.endCell k).rx.carrier = .unsampled := by
  unfold State.endCell
  dsimp only
  split
  · have rx := congrArg State.rx (closeSection_frame (s := { s.settleCell k with rx := (s.settleCell k).rx.clearedCell }))
    have buffer := congrArg Receiver.buffer rx
    have carrier := congrArg Receiver.carrier rx
    exact ⟨buffer, carrier⟩
  · exact ⟨rfl, rfl⟩

/-- Before cell 95 the count stands and the channel is untouched. -/
theorem endCell_before_channel (h : k ≠ 95) :
    s.counts k (s.endCell k).rx.rejected ∧ (s.endCell k).channel = s.channel := by
  rw [endCell_before h]
  exact ⟨settleCell_rx.2, settleCell_channel.1⟩

/-- Cell 95 hands the count to the scheduler (R128). -/
theorem endCell_last_channel : (s.endCell 95).rx.rejected = 0 ∧
    (s.endCell 95).channel = { s.channel with quality := s.channel.qualityOf (s.settleCell 95).rx.rejected } := by
  have closed := closeSection_frame (s := { s.settleCell 95 with rx := (s.settleCell 95).rx.clearedCell })
  have rx := congrArg (fun u : State => u.rx.rejected) closed
  have channel := congrArg State.channel closed
  rw [endCell_last]
  refine ⟨rx, channel.trans ?_⟩
  dsimp only
  rw [settleCell_channel.1]
  rfl

/-- The notices of a cell's end: the availability that changes, and then the quality that changes (R12, R128). -/
theorem endCell_told : ∃ told : State, s.tellsStatus k told ∧
    ((s.endCell k).channel.quality = s.channel.quality → (s.endCell k).ports = told.ports) ∧
    ((s.endCell k).channel.quality ≠ s.channel.quality → ∃ n, s.counts k n ∧
      (s.endCell k).ports = (told.raiseNotice ⟨true, true, true⟩ ⟨.receptionQuality, 0, 255, (s.endCell k).channel.quality.code,
        byteOf n, s.channel.cycle.extractLsb' 8 8, s.channel.cycle.extractLsb' 0 8⟩).ports) := by
  obtain ⟨told, tells, ports, sup⟩ := settleCell_told (s := s) (k := k)
  obtain ⟨channel, sup'⟩ := settleCell_channel (s := s) (k := k)
  refine ⟨told, tells, ?_⟩
  by_cases last : k = 95
  · subst last
    have quality : (s.endCell 95).channel.quality = s.channel.qualityOf (s.settleCell 95).rx.rejected :=
      congrArg Channel.quality endCell_last_channel.2
    have closed := closeSection_ports (s := { s.settleCell 95 with rx := (s.settleCell 95).rx.clearedCell })
    rw [← endCell_last] at closed
    dsimp only [Receiver.clearedCell] at closed
    rw [channel] at closed
    rw [quality]
    refine ⟨fun same => ?_, fun changed => ⟨_, settleCell_rx.2, ?_⟩⟩
    · exact (closed.trans (if_pos same)).trans ports
    · exact (closed.trans (if_neg changed)).trans (raiseNotice_ports_congr ports (sup'.trans sup.symm) _ _)
  · rw [endCell_before last]
    exact ⟨fun _ => ports, fun changed => absurd (congrArg Channel.quality channel) changed⟩

/-- The roster and the hand-offs are the decision's. -/
theorem endCell_tables : (s.endCell k).roster = (s.settleCell k).roster ∧ (s.endCell k).handOffs = (s.settleCell k).handOffs := by
  have roster := congrArg State.roster (endCell_frame (s := s) (k := k))
  have handOffs := congrArg State.handOffs (endCell_frame (s := s) (k := k))
  exact ⟨roster, handOffs⟩

theorem endCell_rest :
    { s.endCell k with roster := s.roster, handOffs := s.handOffs, rx := s.rx, channel := s.channel, ports := s.ports } = s := by
  have settled := congrArg (fun u : State => { u with channel := s.channel }) (s.settleCell_frame k).1
  have ended := congrArg (fun u : State => { u with roster := s.roster, handOffs := s.handOffs })
    (endCell_frame (s := s) (k := k))
  exact ended.trans settled

end Sys2Proof.Machine
end

section
/-! PROOF. The command that ends a cell (R153, R161). -/

namespace Sys2Proof.Machine

open Sys2Proof

variable {s : State} {k : MemberIdx}

/-- A callout that carries the tag of the word heard (R161). -/
def State.carriesTag (s : State) (c : Callout) : Prop :=
  (∃ j : SlotIdx, s.slots[j] = some c) ∧ c.isActive = true ∧ c.number.toNat % 64 = s.heardWord.toNat / 2048 % 64

theorem endCell_unaccepted (h : ¬s.accepts k) :
    (s.endCell k).roster = s.roster ∧ (s.endCell k).handOffs = s.handOffs := by
  have roster := congrArg State.roster (settleCell_unaccepted h)
  have handOffs := congrArg State.handOffs (settleCell_unaccepted h)
  exact ⟨endCell_tables.1.trans roster, endCell_tables.2.trans handOffs⟩

theorem endCell_member_other {m : MemberIdx} (h : m ≠ k) : (s.endCell k).member m = s.member m := by
  have settled := (s.settleCell_frame k).2 m h
  rw [State.member, endCell_tables.1]
  exact settled

/-- An accepted callout reply: last heard is set, and the reply goes to the callout that carries its tag (R14, R161). -/
theorem endCell_callout (distinct : s.tagsDistinct) (accepts : s.accepts k)
    (h : s.heardWord.toNat / 4194304 = 0 ∨ s.heardWord.toNat / 4194304 = 1) :
    (s.endCell k).member k = { s.member k with lastHeard := some s.channel.cycle } ∧
    (∀ c, s.carriesTag c → (s.endCell k).handOffs = s.handOffs ++
      [if s.heardWord.toNat / 4194304 = 0 then
        ⟨k, .attending, if s.heardWord.toNat / 131072 % 32 = 31 then none else some (s.heardWord.toNat / 131072 % 32), c.number⟩
      else ⟨k, .declined, none, c.number⟩]) ∧
    ((∀ c, ¬s.carriesTag c) → (s.endCell k).handOffs = s.handOffs) := by
  obtain ⟨a, eta, accepted, reply⟩ := accept_callout (s := s) (k := k) h
  have roster := congrArg State.roster (accept_callout_frame (s := s) (k := k) h)
  obtain ⟨roster', handOffs'⟩ := endCell_tables (s := s) (k := k)
  rw [settleCell_accepted accepts] at roster' handOffs'
  rw [accepted] at handOffs'
  refine ⟨?_, ?_, ?_⟩
  · rw [← heard_member, State.member, roster', State.member]
    exact congrArg (·[k]) roster
  · rintro c ⟨⟨j, held⟩, active, tagged⟩
    rw [handOffs', ← reply]
    exact handOn_matched (s := s.heard k) distinct held active (tagOf_eq_tagField.2 tagged)
  · intro none
    rw [handOffs']
    exact handOn_unmatched (s := s.heard k) fun j c held active tagged =>
      none c ⟨⟨j, held⟩, active, tagOf_eq_tagField.1 tagged⟩

/-- An accepted status reply: the record takes it, and nothing is handed on (R11). -/
theorem endCell_status {v : Availability} (accepts : s.accepts k) (status : SaysStatus s.heardWord v) :
    (s.endCell k).handOffs = s.handOffs ∧ (s.endCell k).member k = { s.member k with
      lastHeard := some s.channel.cycle
      availability := v
      source := if (s.member k).availability = v then (s.member k).source else .pager } := by
  obtain ⟨roster', handOffs'⟩ := endCell_tables (s := s) (k := k)
  rw [settleCell_accepted accepts] at roster' handOffs'
  have handOffs := congrArg State.handOffs (accept_status_frame (s := s) (k := k) status)
  refine ⟨handOffs'.trans handOffs, ?_⟩
  rw [← accept_status_member status, State.member, roster', State.member]

theorem exec_cellEnd (clocked : s.clocked = true) (ending : s.endingCell = some k) :
    exec .cellEnd s = .next (if s.awaitsHandOff k then s else s.endCell k) := by
  show Host.Outcome.next _ = _
  simp only [clocked, ending, if_true]

/-- A status reply waits while a callout reply is on its way (R161; log entry 9). -/
theorem awaitsHandOff_iff : s.awaitsHandOff k = true ↔ s.handOffs ≠ [] ∧ ∃ v, s.accepts k ∧ SaysStatus s.heardWord v := by
  have busy : (!s.handOffs.isEmpty) = true ↔ s.handOffs ≠ [] := by
    rw [Bool.not_eq_true', Bool.eq_false_iff, ne_eq, List.isEmpty_iff]
  unfold State.awaitsHandOff
  rw [Bool.and_eq_true, busy]
  refine and_congr_right fun _ => ?_
  by_cases accepts : s.accepts k
  · rw [decideCell_accepted accepts]
    dsimp only
    rw [decide_eq_true_eq, answerField_toNat]
    refine ⟨fun late => ?_, fun ⟨v, _, status⟩ => status.two_le⟩
    rcases answer_cases s.heardWord with callout | ⟨v, status⟩
    · omega
    · exact ⟨v, accepts, status⟩
  · refine iff_of_false ?_ fun ⟨v, h, _⟩ => accepts h
    by_cases present : s.rx.carrier = .present
    · rw [decideCell_rejected present accepts]
      exact Bool.false_ne_true
    · rw [decideCell_empty present]
      exact Bool.false_ne_true

/-- Settles O58: the wait of a status reply, and otherwise the end of the cell, part by part. -/
theorem cellEndDecidesTheCell : Obligations.CellEndDecidesTheCell := by
  refine ⟨fun s k => endingCell_iff, fun s k distinct clocked ending => ⟨fun busy status => ?waits, fun goes =>
    ⟨s.endCell k, ?goes, endCell_cleared.1, endCell_cleared.2, endCell_before_channel, fun last => ?last, endCell_told,
      endCell_unaccepted, fun accepts => ⟨fun m => endCell_member_other, endCell_callout distinct accepts,
        fun v => endCell_status accepts⟩, endCell_rest⟩⟩⟩
  case waits =>
    rw [exec_cellEnd clocked ending, if_pos (awaitsHandOff_iff.2 ⟨busy, status⟩)]
  case goes =>
    have going : s.awaitsHandOff k = false := by
      rw [Bool.eq_false_iff]
      intro waits
      obtain ⟨busy, v, status⟩ := awaitsHandOff_iff.1 waits
      exact goes.elim busy fun none => none v status
    rw [exec_cellEnd clocked ending, going]
    rfl
  case last =>
    subst last
    exact ⟨endCell_last_channel.1, _, settleCell_rx.2, endCell_last_channel.2⟩

end Sys2Proof.Machine
end

section
/-! PROOF. Which slot runs which plan: what each operation of the tables leaves of the Active callouts, their plans and the plan
table. -/

namespace Sys2Proof.Machine

open Sys2Proof

variable {s t u : State}

/-! ### Runs -/

/-- The plan that a callout runs, if it is Active (R29). -/
def Callout.running (c : Callout) : Option PlanIdx := if c.isActive then some c.plan else none

/-- The plan that the callout of a slot runs, if the slot holds an Active one. -/
def State.running (s : State) (k : SlotIdx) : Option PlanIdx := (s.slots[k]).bind Callout.running

theorem Callout.running_eq_some {c : Callout} {i : PlanIdx} : c.running = some i ↔ c.isActive = true ∧ c.plan = i := by
  unfold Callout.running
  split <;> simp_all

theorem Callout.running_of_active {c : Callout} (active : c.isActive = true) : c.running = some c.plan := if_pos active

theorem Callout.running_of_inactive {c : Callout} (inactive : c.isActive = false) : c.running = none := by
  simp only [Callout.running, inactive, Bool.false_eq_true, if_false]

/-- What a callout runs reads its lifecycle and its plan alone. -/
theorem Callout.running_congr {c d : Callout} (lifecycle : d.lifecycle = c.lifecycle) (plan : d.plan = c.plan) :
    d.running = c.running := by
  unfold Callout.running Callout.isActive
  rw [lifecycle, plan]

theorem Callout.running_withProgress (c : Callout) (p : Progress) : (c.withProgress p).running = c.running := by
  cases hl : c.lifecycle with
  | active run =>
    have before : c.isActive = true := Callout.isActive_iff.2 ⟨run, hl⟩
    rw [Callout.withProgress_active hl, Callout.running_of_active before]
    rfl
  | departed | standingDown => rw [Callout.withProgress_inactive (by simp only [Callout.isActive, hl])]

theorem Callout.running_putBack (c : Callout) (i : TxItem) : (c.putBack i).running = c.running :=
  Callout.running_withProgress _ _

theorem Callout.running_ticked (c : Callout) : c.ticked.running = c.running := by
  unfold Callout.ticked
  split
  · rename_i hl
    exact (Callout.running_of_active (Callout.isActive_iff.2 ⟨_, hl⟩)).symm ▸ rfl
  · rfl

theorem Turn.running_left (t : Turn) : t.left.running = t.callout.running := by
  unfold Turn.left
  split
  · rfl
  · split
    · split
      · exact Callout.running_withProgress _ _
      · rfl
    · rfl

theorem State.running_advance (s : State) (c : Callout) : (s.advance c).running = c.running := by
  unfold State.advance
  split
  · rfl
  · split
    · split
      · exact Callout.running_withProgress _ _
      · rfl
    · exact Callout.running_withProgress _ _

/-- The stop of the channel ends no Active callout (R58). -/
theorem running_stoppedSlot (x : Option Callout) : (stoppedSlot x).bind Callout.running = x.bind Callout.running := by
  cases x with
  | none => rfl
  | some c =>
    cases hl : c.lifecycle with
    | active run => simp only [stoppedSlot, Option.bind_some, hl]
    | departed =>
      have same : ({ c with queue := [] } : Callout).running = c.running := Callout.running_congr rfl rfl
      simp only [stoppedSlot, Option.bind_some, hl]
      exact (congrArg Callout.running (by rw [hl])).trans same
    | standingDown sent =>
      have inactive : c.running = none := Callout.running_of_inactive (by simp only [Callout.isActive, hl])
      simp only [stoppedSlot, Option.bind_some, hl, inactive]
      rfl

theorem State.running_of_slot {k : SlotIdx} {c : Callout} (held : s.slots[k] = some c) : s.running k = c.running := by
  simp only [State.running, held, Option.bind_some]

theorem State.running_eq_some {k : SlotIdx} {i : PlanIdx} :
    s.running k = some i ↔ ∃ c, s.slots[k] = some c ∧ c.isActive = true ∧ c.plan = i := by
  simp only [State.running, Option.bind_eq_some_iff, Callout.running_eq_some]

theorem State.running_congr (slots : t.slots = s.slots) (k : SlotIdx) : t.running k = s.running k := by
  simp only [State.running, slots]

theorem State.running_setSlot (s : State) (k : SlotIdx) (x : Option Callout) (j : SlotIdx) :
    (s.setSlot k x).running j = if j = k then x.bind Callout.running else s.running j := by
  unfold State.running
  rw [State.slots_setSlot]
  split <;> rfl

/-! ### What leaves every run and the plan table as they are -/

/-- Every slot runs the plan that it ran, and the plan table is the same. -/
structure State.runsKept (s t : State) : Prop where
  plans : t.plans = s.plans
  running : ∀ k : SlotIdx, t.running k = s.running k

theorem State.runsKept_refl (s : State) : s.runsKept s := ⟨rfl, fun _ => rfl⟩

theorem State.runsKept_trans (h : s.runsKept t) (g : t.runsKept u) : s.runsKept u :=
  ⟨g.plans.trans h.plans, fun k => (g.running k).trans (h.running k)⟩

theorem State.runsKept_of_eq (plans : t.plans = s.plans) (slots : t.slots = s.slots) : s.runsKept t :=
  ⟨plans, State.running_congr slots⟩

theorem State.sameTables.runsKept (h : s.sameTables t) : s.runsKept t := State.runsKept_of_eq h.plans h.slots

theorem State.noticed.runsKept (h : s.noticed t) : s.runsKept t := h.sameTables.runsKept

/-- A frame equation, which says that a state with other fields of `t` put back is `s`, carries runs and plans over. -/
theorem State.runsKept_of_frame (frame : u = s) (plans : t.plans = u.plans) (slots : t.slots = u.slots) : s.runsKept t :=
  frame ▸ State.runsKept_of_eq plans slots

theorem State.runsKept_setSlot {k : SlotIdx} {x : Option Callout} (same : x.bind Callout.running = s.running k) :
    s.runsKept (s.setSlot k x) := by
  refine ⟨rfl, fun j => ?_⟩
  rw [State.running_setSlot]
  split
  · rename_i hj
    exact hj ▸ same
  · rfl

/-- A slot's callout replaced by one that runs what it ran. -/
theorem State.runsKept_replace {k : SlotIdx} {c d : Callout} (held : s.slots[k] = some c) (same : d.running = c.running) :
    s.runsKept (s.setSlot k (some d)) :=
  State.runsKept_setSlot (same.trans (State.running_of_slot held).symm)

/-- A callout that is not Active freed (R34). -/
theorem State.runsKept_free {k : SlotIdx} {c : Callout} (held : s.slots[k] = some c) (inactive : c.isActive = false)
    (why : FreedReason) : s.runsKept (s.free k c why) := by
  have none : s.running k = none := (State.running_of_slot held).trans (Callout.running_of_inactive inactive)
  exact State.runsKept_trans (State.runsKept_setSlot (x := Option.none) none.symm) (State.noticed_raiseNotice _ _ _).runsKept

/-! ### The engine's operations -/

theorem State.settle_plans (s : State) (k : SlotIdx) (c : Callout) : (s.settle k c).plans = s.plans := by
  have plans := congrArg State.plans (s.settle_frame k c).1
  exact plans

/-- The crew builder's result written back for the callout that stands in the slot (R100, R101). -/
theorem State.runsKept_settle {k : SlotIdx} {c d : Callout} (held : s.slots[k] = some c) (same : d.running = c.running) :
    s.runsKept (s.settle k d) :=
  State.runsKept_trans (State.runsKept_replace held same)
    (State.runsKept_of_eq (s := s.setSlot k (some d)) (s.settle_plans k d) (s.settle_frame k d).2)

theorem State.runsKept_record {k : SlotIdx} {c : Callout} (held : s.slots[k] = some c) (r : Reply) (a : Answer) (mark : Bool)
    (room : Room) : s.runsKept (s.record k c r a mark room) := by
  have frame := (s.engageReply_frame c.number r.member a mark).1
  have engaged : s.runsKept (s.engageReply c.number r.member a mark) := State.runsKept_of_frame frame rfl rfl
  have slots := congrArg State.slots frame
  have held' : (s.engageReply c.number r.member a mark).slots[k] = some c :=
    (congrArg (fun v : Vector (Option Callout) 8 => v[k]) slots).trans held
  refine State.runsKept_trans (State.runsKept_trans engaged ?_) (s.record_effect k c r a mark room).runsKept
  exact State.runsKept_settle held' rfl

theorem State.runsKept_withdraw {k : SlotIdx} {d : Callout} (held : s.slots[k] = some d) (r : Reply) :
    s.runsKept (s.withdraw k d r) := by
  have engaged : s.runsKept (s.engage r.member .free) := State.runsKept_of_eq rfl rfl
  refine State.runsKept_trans (State.runsKept_trans engaged ?_) (s.withdraw_effect k d r).runsKept
  exact State.runsKept_settle (c := d) held rfl

/-- A reply handled, whatever is recorded of it (R70). -/
theorem State.runsKept_handleReply {k : SlotIdx} {c : Callout} (held : s.slots[k] = some c) (r : Reply) :
    s.runsKept (s.handleReply k c r).1 := by
  have outcomes := s.handleReply_cases k c r
  dsimp only at outcomes
  rcases outcomes with ⟨-, h⟩ | ⟨-, h⟩ | ⟨-, (⟨kd, d, hw, h⟩ | ⟨-, h⟩ | ⟨-, h⟩)⟩ <;> rw [h]
  · exact (State.noticed_raiseNotice _ _ _).runsKept
  · exact s.runsKept_refl
  · obtain ⟨hd, hn⟩ := State.weigh_withdrawing hw
    have hne : k ≠ kd := by
      rintro rfl
      rw [held] at hd
      cases hd
      exact hn rfl
    have still : (s.withdraw kd d r).slots[k] = some c := by
      simp only [State.withdraw_slots]
      exact (State.slots_setSlot_other s _ hne).trans held
    exact State.runsKept_trans (State.runsKept_withdraw hd r) (State.runsKept_record still r _ _ _)
  · exact State.runsKept_record held r _ _ _
  · exact State.runsKept_record held r _ _ _

theorem State.runsKept_takeHandOff (h : HandOff) : s.runsKept (s.takeHandOff h) := by
  unfold State.takeHandOff
  split
  · exact s.runsKept_refl
  · rename_i hl
    split
    · exact State.runsKept_handleReply (State.lookup_some hl).1 _
    · exact s.runsKept_refl

theorem State.runsKept_merge {k : SlotIdx} {c : Callout} (held : s.slots[k] = some c) (p : Port) (priority : BitVec 3) :
    s.runsKept (s.merge p k c priority) := by
  refine State.runsKept_trans ?_ (State.noticed_raiseNotice _ _ _).runsKept
  exact State.runsKept_replace held (Callout.running_congr rfl rfl)

/-- A hold that expires leaves its callout Active on its plan (R48). -/
theorem State.runsKept_expireHold {k : SlotIdx} {c : Callout} (held : s.slots[k] = some c) (active : c.isActive = true)
    (run : ActiveRun) : s.runsKept (s.expireHold k c run) := by
  obtain ⟨u, c', told, expired, same, active'⟩ := s.expireHold_effect k c run
  obtain ⟨-, -, -, -, -, -, plan, -⟩ := same
  have held' : u.slots[k] = some c := by simpa only [told.sameTables.slots] using held
  rw [expired]
  refine State.runsKept_trans told.runsKept (State.runsKept_replace held' ?_)
  rw [Callout.running_of_active active', Callout.running_of_active active, plan]

theorem State.runsKept_release {k : SlotIdx} {c : Callout} (held : s.slots[k] = some c) (departed : c.lifecycle = .departed) :
    s.runsKept (s.releaseCallout k c) := by
  have inactive : c.isActive = false := by simp only [Callout.isActive, departed]
  have engaged : s.runsKept (s.disengage fun e => e = .assigned c.number) := State.runsKept_of_eq rfl rfl
  exact State.runsKept_trans engaged (State.runsKept_free (s := s.disengage _) held inactive .released)

/-! ### The channel's operations -/

theorem State.runsKept_returnItem (i : TxItem) : s.runsKept (State.returnItem i s) := by
  rcases s.returnItem_effect i with he | ⟨k, c, hl, -, he⟩ <;> rw [he]
  · exact s.runsKept_refl
  · exact State.runsKept_replace (State.lookup_some hl).1 (Callout.running_putBack c i)

theorem State.runsKept_returnUnsent (s : State) : s.runsKept s.returnUnsent := by
  have all : ∀ l : List PlannedItem, s.runsKept (l.foldr (fun e u => State.returnItem e.item u) s) := by
    intro l
    induction l with
    | nil => exact s.runsKept_refl
    | cons e rest ih => exact State.runsKept_trans ih (State.runsKept_returnItem e.item)
  exact State.runsKept_trans (all s.unsent) (State.runsKept_of_eq rfl rfl)

/-- The turns of a plan point leave their callouts on their plans (R116). -/
theorem State.runsKept_buildPlan (s : State) : s.runsKept s.buildPlan := by
  have turns : ∀ (l : List Turn) (u : State), s.runsKept u → (∀ t ∈ l, t.left.running = s.running t.slot) →
      s.runsKept (l.foldl (fun v t => v.setSlot t.slot (some t.left)) u) := by
    intro l
    induction l with
    | nil => exact fun _ kept _ => kept
    | cons t rest ih =>
      intro u kept same
      refine ih _ (State.runsKept_trans kept (State.runsKept_setSlot ?_)) fun x hx => same x (List.mem_cons_of_mem _ hx)
      exact (same t List.mem_cons_self).trans (kept.running t.slot).symm
  have planned := turns (planTurns Config.outboundBudget s.waiting) s s.runsKept_refl fun t ht => by
    obtain ⟨b, k, c, hw, rfl⟩ := mem_planTurns ht
    rw [Turn.running_left]
    exact (State.running_of_slot (State.mem_waiting.1 hw).1).symm
  exact State.runsKept_trans planned (State.runsKept_of_eq rfl rfl)

theorem State.runsKept_keyingDecision (pins : SitePins) : s.runsKept (s.keyingDecision pins) := by
  unfold State.keyingDecision
  dsimp only
  split
  · exact State.runsKept_of_eq rfl rfl
  · split
    · split
      · exact State.runsKept_trans (s.sameTables_select _ _).runsKept (State.runsKept_of_eq rfl rfl)
      · exact State.runsKept_of_eq rfl rfl
    · exact State.runsKept_trans s.runsKept_returnUnsent (State.runsKept_of_eq rfl rfl)

theorem State.runsKept_openCycle (s : State) (lone : Bool) (pins : SitePins) : s.runsKept (s.openCycle lone pins) := by
  have opened : s.runsKept { s with channel := { s.channel with cycle := s.channel.cycle + 1, pos := .lead lone 0 } } :=
    State.runsKept_of_eq rfl rfl
  have planned := State.runsKept_trans opened (State.runsKept_buildPlan _)
  unfold State.openCycle
  dsimp only
  refine State.runsKept_trans ?_ (State.runsKept_keyingDecision pins)
  refine State.runsKept_trans ?_ (State.sameTables_sampleSite _ pins).runsKept
  exact State.runsKept_trans planned (State.runsKept_of_eq rfl rfl)

theorem State.runsKept_stopSlots (s : State) : s.runsKept s.stopSlots := by
  obtain ⟨told, stopped⟩ := s.stopSlots_effect
  have plans := told.sameTables.plans
  generalize s.stopSlots = u at plans stopped
  refine ⟨plans, fun k => ?_⟩
  unfold State.running
  rw [stopped k]
  exact running_stoppedSlot _

theorem State.runsKept_stopChannel (s : State) (why : ChannelCause) : s.runsKept (s.stopChannel why) := by
  have rested : s.runsKept { s.unkey with channel := { s.unkey.channel with pos := .absent } } := State.runsKept_of_eq rfl rfl
  exact State.runsKept_trans (State.runsKept_trans rested (State.sameTables_changeChannel _ .stopped why).runsKept)
    (State.runsKept_stopSlots _)

theorem State.runsKept_loseClock (s : State) : s.runsKept s.loseClock := by
  unfold State.loseClock
  split
  · have rested : s.runsKept { s.returnUnsent.unkey with
        channel := { s.returnUnsent.unkey.channel with pos := .absent }, rx := .afterReset } :=
      State.runsKept_trans s.runsKept_returnUnsent (State.runsKept_of_eq rfl rfl)
    dsimp only
    split
    · exact State.runsKept_trans rested (State.sameTables_changeChannel _ .suspended .clockLost).runsKept
    · exact State.runsKept_trans rested (State.runsKept_stopChannel _ .clockLost)
  · exact s.runsKept_refl

theorem State.runsKept_loseReference (s : State) : s.runsKept s.loseReference := by
  unfold State.loseReference
  refine State.runsKept_trans ?_ (State.runsKept_loseClock _)
  exact State.runsKept_of_eq rfl rfl

/-- A completion frees at most a callout that stands down (R54). -/
theorem State.runsKept_matchCompletion (i : TxItem) : s.runsKept (s.matchCompletion i) := by
  unfold State.matchCompletion
  split
  · exact s.runsKept_refl
  · rename_i k c hl
    have held := (State.lookup_some hl).1
    split
    · split
      · split
        · exact State.runsKept_replace held (s.running_advance c)
        · exact s.runsKept_refl
      · rename_i sent standing
        have inactive : c.isActive = false := by simp only [Callout.isActive, standing]
        split
        · split
          · exact State.runsKept_free held inactive .stoodDown
          · exact State.runsKept_replace held (Callout.running_of_inactive inactive).symm
        · exact s.runsKept_refl
      · exact s.runsKept_refl
    · exact s.runsKept_refl

theorem State.runsKept_complete (e : PlannedItem) : s.runsKept (s.complete e) := by
  refine State.runsKept_trans ?_ (State.runsKept_matchCompletion e.item)
  exact State.runsKept_of_eq rfl rfl

theorem State.runsKept_advanceSymbol (pins : RxPins) : s.runsKept (s.advanceSymbol pins) :=
  State.runsKept_of_frame (s.advanceSymbol_frame pins).1 rfl rfl

theorem State.runsKept_endCell (k : MemberIdx) : s.runsKept (s.endCell k) := by
  have settled : s.runsKept (s.settleCell k) := State.runsKept_of_frame (s.settleCell_frame k).1 rfl rfl
  have frame := endCell_frame (s := s) (k := k)
  have plans := congrArg State.plans frame
  have slots := congrArg State.slots frame
  exact State.runsKept_trans settled (State.runsKept_of_eq plans slots)

end Sys2Proof.Machine
end

section
/-! PROOF. The law of the usage counts (R20, R29), by the runs of the slots: what keeps it, and what each operation that moves a
run does to it. -/

namespace Sys2Proof.Machine

open Sys2Proof

variable {s t u : State}

/-! ### The law -/

theorem runsPlan_slot (s : State) (i : PlanIdx) (k : SlotIdx) : runsPlan i s.slots[k] = decide (s.running k = some i) := by
  unfold State.running
  cases s.slots[k] with
  | none => rfl
  | some c =>
    simp only [runsPlan, Option.bind_some, Callout.running_eq_some, Bool.decide_and, Bool.decide_eq_true]

/-- The law, said of the runs of the slots. -/
theorem State.usageExact_iff (s : State) : s.usageExact ↔
    (∀ i : PlanIdx, s.plans[i].usage = allSlots.countP fun k => decide (s.running k = some i)) ∧
      ∀ (k : SlotIdx) (i : PlanIdx), s.running k = some i → s.plans[i].runnable = true := by
  unfold State.usageExact
  simp only [runsPlan_slot]
  refine and_congr_right fun _ => ⟨fun fit k i runs => ?_, fun fit k c hc active => ?_⟩
  · obtain ⟨c, held, active, rfl⟩ := State.running_eq_some.1 runs
    exact fit k c held active
  · exact fit k c.plan (State.running_eq_some.2 ⟨c, hc, active, rfl⟩)

theorem State.runsKept.usageExact (kept : s.runsKept t) (law : s.usageExact) : t.usageExact := by
  rw [State.usageExact_iff] at law ⊢
  simpa only [kept.plans, kept.running] using law

/-- A plan that a slot runs has a usage count above 0. -/
theorem State.usageExact.usage_pos (law : s.usageExact) {k : SlotIdx} {i : PlanIdx} (runs : s.running k = some i) :
    0 < s.plans[i].usage := by
  rw [(s.usageExact_iff.1 law).1 i]
  exact List.countP_pos_iff.2 ⟨k, List.mem_finRange k, by simpa using runs⟩

/-- Counts of slots whose tests agree but at one slot differ by that slot's tests. -/
theorem countP_allSlots_swap {p q : SlotIdx → Bool} (k : SlotIdx) (others : ∀ j, j ≠ k → q j = p j) :
    allSlots.countP q + (if p k then 1 else 0) = allSlots.countP p + (if q k then 1 else 0) := by
  have apart := List.perm_cons_erase (List.mem_finRange k)
  have same : ((List.finRange 8).erase k).countP q = ((List.finRange 8).erase k).countP p := by
    refine List.countP_congr fun j hj => ?_
    rw [others j ((List.nodup_finRange 8).mem_erase_iff.1 hj).1]
  unfold allSlots
  rw [apart.countP_eq q, apart.countP_eq p, List.countP_cons, List.countP_cons, same]
  omega

/-- One slot runs another plan, or none any more, or one where it ran none: the law is kept when the counts have followed and the
new plan is runnable. -/
theorem State.usageExact_of_rerun (law : s.usageExact) (k : SlotIdx) (others : ∀ j, j ≠ k → t.running j = s.running j)
    (steps : ∀ i : PlanIdx, t.plans[i].steps = s.plans[i].steps)
    (counted : ∀ i : PlanIdx, t.plans[i].usage + (if s.running k = some i then 1 else 0) =
      s.plans[i].usage + (if t.running k = some i then 1 else 0))
    (fit : ∀ i : PlanIdx, t.running k = some i → s.plans[i].runnable = true) : t.usageExact := by
  obtain ⟨usage, fits⟩ := s.usageExact_iff.1 law
  have runnable : ∀ i : PlanIdx, t.plans[i].runnable = s.plans[i].runnable := fun i => by
    simp only [Plan.runnable, steps i]
  refine t.usageExact_iff.2 ⟨fun i => ?_, fun j i runs => ?_⟩
  · have swapped := countP_allSlots_swap (p := fun j => decide (s.running j = some i))
      (q := fun j => decide (t.running j = some i)) k fun j hj => by simp only [others j hj]
    simp only [decide_eq_true_eq] at swapped
    have counted := counted i
    rw [usage i] at counted
    omega
  · rw [runnable i]
    by_cases hj : j = k
    · exact fit i (hj ▸ runs)
    · exact fits j i (others j hj ▸ runs)

/-- No slot runs a plan and every count is 0: the law holds. -/
theorem State.usageExact_of_cleared (plans : ∀ i : PlanIdx, t.plans[i] = .cleared) (slots : ∀ k : SlotIdx, t.slots[k] = none) :
    t.usageExact := by
  have idle : ∀ k, t.running k = none := fun k => by simp only [State.running, slots k, Option.bind_none]
  refine t.usageExact_iff.2 ⟨fun i => ?_, fun k i runs => ?_⟩
  · rw [plans i]
    exact (List.countP_eq_zero.2 fun k _ => by simp [idle k]).symm
  · rw [idle k] at runs
    cases runs

/-- A plan that no callout runs written, its count still 0 (R23, R27 check 2). -/
theorem State.usageExact_setPlan (law : s.usageExact) {i : PlanIdx} {x : Plan} (unused : s.plans[i].usage = 0)
    (count : x.usage = 0) : (s.setPlan i x).usageExact := by
  obtain ⟨usage, fits⟩ := s.usageExact_iff.1 law
  refine (State.usageExact_iff _).2 ⟨fun j => ?_, fun k j runs => ?_⟩
  · by_cases hj : j = i
    · subst hj
      rw [State.plans_setPlan_self, count, ← unused]
      exact usage j
    · rw [State.plans_setPlan_other _ _ hj]
      exact usage j
  · have runs : s.running k = some j := runs
    have hj : j ≠ i := by
      rintro rfl
      exact Nat.ne_of_gt (law.usage_pos runs) unused
    rw [State.plans_setPlan_other _ _ hj]
    exact fits k j runs

/-! ### Operations that move a run -/

theorem State.usage_takeUpPlan (s : State) (i j : PlanIdx) :
    (s.takeUpPlan i).plans[j].usage = s.plans[j].usage + if i = j then 1 else 0 := by
  unfold State.takeUpPlan
  by_cases hj : j = i
  · subst hj
    rw [State.plans_setPlan_self, if_pos rfl]
  · rw [State.plans_setPlan_other _ _ hj, if_neg (Ne.symm hj), Nat.add_zero]

theorem State.usage_leavePlan (s : State) (i j : PlanIdx) :
    (s.leavePlan i).plans[j].usage = s.plans[j].usage - if i = j then 1 else 0 := by
  unfold State.leavePlan
  by_cases hj : j = i
  · subst hj
    rw [State.plans_setPlan_self, if_pos rfl]
  · rw [State.plans_setPlan_other _ _ hj, if_neg (Ne.symm hj), Nat.sub_zero]

/-- A step of a runnable plan starts for the callout of a slot, which then runs that plan, in a state `u` whose counts have
followed (R40, R41, R51). -/
theorem State.usageExact_startStep (law : s.usageExact) (k : SlotIdx) (n : Nat) (c : Callout)
    (others : ∀ j, j ≠ k → u.running j = s.running j) (steps : ∀ i : PlanIdx, u.plans[i].steps = s.plans[i].steps)
    (counted : ∀ i : PlanIdx, u.plans[i].usage + (if s.running k = some i then 1 else 0) =
      s.plans[i].usage + if c.plan = i then 1 else 0)
    (fit : s.plans[c.plan].runnable = true) : (u.startStep k n c).usageExact := by
  obtain ⟨v, d, told, started, ⟨-, -, -, -, -, -, plan, -⟩, active⟩ := u.startStep_effect k n c
  have plans : (u.startStep k n c).plans = u.plans := started ▸ told.sameTables.plans
  have running : ∀ j, (u.startStep k n c).running j = if j = k then some c.plan else u.running j := fun j => by
    rw [started, State.running_setSlot, Option.bind_some, Callout.running_of_active active, plan, told.runsKept.running]
  refine State.usageExact_of_rerun law k (fun j hj => ?_) (fun i => ?_) (fun i => ?_) fun i runs => ?_
  · rw [running j, if_neg hj]
    exact others j hj
  · rw [plans]
    exact steps i
  · rw [plans, running k, if_pos rfl]
    simpa only [Option.some.injEq] using counted i
  · rw [running k, if_pos rfl] at runs
    cases runs
    exact fit

theorem State.running_settle (s : State) (k : SlotIdx) (c : Callout) (j : SlotIdx) :
    (s.settle k c).running j = if j = k then c.running else s.running j :=
  (State.running_congr (s := s.setSlot k (some c)) (s.settle_frame k c).2 j).trans (s.running_setSlot k (some c) j)

/-- A new callout in a Free slot, on a runnable plan (R40). -/
theorem State.usageExact_allocate (law : s.usageExact) (p : Port) {k : SlotIdx} {c : Callout} (free : s.slots[k] = none)
    (fit : s.plans[c.plan].runnable = true) : (s.allocate p k c).usageExact := by
  have idle : s.running k = none := by simp only [State.running, free, Option.bind_none]
  refine State.usageExact_startStep law k 0 c (fun j hj => ?_) (fun i => ?_) (fun i => ?_) fit
  · exact (State.running_setSlot s k (some c) j).trans (if_neg hj)
  · exact ((s.storesKept_takeUpPlan c.plan).plans i).2
  · rw [idle]
    exact s.usage_takeUpPlan c.plan i

/-- A run given up with its count (R53, R55). -/
theorem State.usageExact_leave (law : s.usageExact) {k : SlotIdx} {i : PlanIdx} (runs : s.running k = some i)
    (plans : t.plans = (s.leavePlan i).plans) (running : ∀ j, t.running j = if j = k then none else s.running j) :
    t.usageExact := by
  refine State.usageExact_of_rerun law k (fun j hj => (running j).trans (if_neg hj)) (fun j => ?_) (fun j => ?_) fun j gone => ?_
  · rw [plans]
    exact ((s.storesKept_leavePlan i).plans j).2
  · have counted := law.usage_pos runs
    rw [plans, s.usage_leavePlan, runs, running k, if_pos rfl]
    simp only [Option.some.injEq, reduceCtorEq, if_false, Nat.add_zero]
    split
    · rename_i hj
      subst hj
      omega
    · rfl
  · rw [running k, if_pos rfl] at gone
    cases gone

theorem State.usageExact_cancel (law : s.usageExact) {k : SlotIdx} {c : Callout} (held : s.slots[k] = some c)
    (active : c.isActive = true) : (s.cancelCallout k c).usageExact := by
  have runs := (State.running_of_slot held).trans (Callout.running_of_active active)
  unfold State.cancelCallout
  dsimp only
  split
  · exact State.usageExact_leave law runs rfl fun j => State.running_setSlot _ k _ j
  · exact State.usageExact_leave law runs rfl fun j => State.running_setSlot _ k none j

theorem State.usageExact_depart (law : s.usageExact) {k : SlotIdx} {c : Callout} (held : s.slots[k] = some c)
    (active : c.isActive = true) : (s.depart k c).usageExact :=
  State.usageExact_leave law ((State.running_of_slot held).trans (Callout.running_of_active active)) rfl
    fun j => State.running_setSlot _ k _ j

/-- The counts once a callout has changed its plan (R51 item 2). -/
theorem State.usage_changePlan {old : PlanIdx} (counted : 0 < s.plans[old].usage) (new i : PlanIdx) :
    (if new = old then s else (s.leavePlan old).takeUpPlan new).plans[i].usage + (if old = i then 1 else 0) =
      s.plans[i].usage + if new = i then 1 else 0 := by
  split
  · rename_i same
    subst same
    rfl
  · rw [State.usage_takeUpPlan, State.usage_leavePlan]
    by_cases hi : old = i
    · subst hi
      simp only [if_true]
      omega
    · simp only [hi, if_false, Nat.sub_zero, Nat.add_zero]

theorem State.usageExact_escalate (law : s.usageExact) {k : SlotIdx} {c : Callout} {i : PlanIdx} (held : s.slots[k] = some c)
    (active : c.isActive = true) (fit : s.plans[i].runnable = true) : (s.escalateTo k c i).usageExact := by
  have runs := (State.running_of_slot held).trans (Callout.running_of_active active)
  have counted := State.usage_changePlan (law.usage_pos runs) i
  have steps := fun j => ((s.storesKept_changePlan c i).plans j).2
  have slots : (if i = c.plan then s else (s.leavePlan c.plan).takeUpPlan i).slots = s.slots := by split <;> rfl
  unfold State.escalateTo
  dsimp only
  generalize (if i = c.plan then s else (s.leavePlan c.plan).takeUpPlan i) = u at counted steps slots ⊢
  generalize hd : u.evaluated { c.bumped with queue := [], plan := i } = d
  have plan : d.plan = i := by rw [← hd]; rfl
  have told := ((u.settle k d).noticed_raiseCrewStatus c.crew d).runsKept
  have plans : ((u.settle k d).raiseCrewStatus c.crew d).plans = u.plans :=
    told.plans.trans (u.settle_plans k d)
  refine State.usageExact_startStep law k 0 d (fun j hj => ?_) (fun j => ?_) (fun j => ?_) (plan ▸ fit)
  · rw [told.running, State.running_settle, if_neg hj]
    exact State.running_congr slots j
  · rw [plans]
    exact steps j
  · rw [plans, plan, runs]
    simpa only [Option.some.injEq] using counted j

end Sys2Proof.Machine
end

section
/-! PROOF. The law of the usage counts (R20, R29) is kept by every command. -/

namespace Sys2Proof.Machine

open Sys2Proof

variable {s t : State} {p : Port} {perm : Permission} {body : State → Taken}

/-! ### Requests -/

/-- A request keeps the law if its own rule does (R165, R167). -/
theorem State.usageExact_takeRequest (law : s.usageExact) (kept : (body s).1.usageExact) :
    (s.takeRequest p perm body).usageExact :=
  State.takeRequest_cases law (fun _ => State.runsKept.usageExact (State.runsKept_of_eq rfl rfl) law)
    (State.runsKept.usageExact (State.runsKept_of_eq rfl rfl) kept)

/-- A request whose rule leaves runs and plans keeps the law. -/
theorem State.usageExact_takeRequest_of_runsKept (law : s.usageExact) (kept : s.runsKept (body s).1) :
    (s.takeRequest p perm body).usageExact :=
  State.usageExact_takeRequest law (kept.usageExact law)

theorem raiseBody_usageExact (law : s.usageExact) (reference : Quad) (plan priority cls : Byte) (location : Three) :
    (raiseBody p reference plan priority cls location s).1.usageExact := by
  unfold raiseBody
  split
  · exact law
  · split
    · rename_i k c found
      split
      · exact State.runsKept.usageExact (State.runsKept_merge (State.findSlot_some found).1 p _) law
      · exact law
    · split
      · exact law
      · rename_i i _
        split
        · exact law
        · rename_i passed
          split
          · exact law
          · rename_i k free
            have fit : s.plans[i].runnable = true := by
              rw [not_or, Bool.not_eq_false] at passed
              exact passed.2
            exact State.usageExact_allocate law p (State.freeSlot_some free) fit

/-- A request on a callout that its port may change keeps the law if its effect on the callout does (R50). -/
theorem State.usageExact_permitted {n : Half} {effect : SlotIdx → Callout → Taken} (law : s.usageExact)
    (kept : ∀ k c, s.slots[k] = some c → (effect k c).1.usageExact) : (s.permitted p n effect).1.usageExact := by
  unfold State.permitted
  split
  · exact law
  · rename_i k c found
    split
    · exact kept k c (State.lookup_some found).1
    · exact law

theorem escalateBody_usageExact (law : s.usageExact) (number : Half) (plan : Byte) :
    (escalateBody p number plan s).1.usageExact := by
  refine State.usageExact_permitted law fun k c held => ?_
  split
  · rename_i active
    split
    · split
      · rename_i fit
        exact State.usageExact_escalate law held active fit
      · exact law
    · exact law
  · exact law

theorem cancelBody_usageExact (law : s.usageExact) (number : Half) : (cancelBody p number s).1.usageExact := by
  refine State.usageExact_permitted law fun k c held => ?_
  split
  · rename_i active
    exact State.usageExact_cancel law held active
  · exact law

theorem markDepartedBody_usageExact (law : s.usageExact) (number : Half) : (markDepartedBody number s).1.usageExact := by
  unfold markDepartedBody
  split
  · exact law
  · rename_i k c found
    split
    · rename_i active
      exact State.usageExact_depart law (State.lookup_some found).1 active
    · exact law

theorem releaseBody_usageExact (law : s.usageExact) (number : Half) : (releaseBody p number s).1.usageExact := by
  refine State.usageExact_permitted law fun k c held => ?_
  split
  · rename_i departed
    exact State.runsKept.usageExact (State.runsKept_release held departed) law
  · exact law

theorem writePlanStepBody_usageExact (law : s.usageExact) (plan step kind : Byte) (groups : Half)
    (count toneGroup condition : Byte) (hold : Half) (repeats rate : Byte) :
    (writePlanStepBody plan step kind groups count toneGroup condition hold repeats rate s).1.usageExact := by
  unfold writePlanStepBody
  split
  · split
    · exact law
    · rename_i unused
      rw [ne_eq, not_not] at unused
      split
      · exact law
      · split
        · exact law
        · exact State.usageExact_setPlan law unused unused
  · exact law

theorem writeTemplateBody_usageExact (law : s.usageExact) (plan officer driver wearer total : Byte) (target : Half) :
    (writeTemplateBody plan officer driver wearer total target s).1.usageExact := by
  unfold writeTemplateBody
  split
  · exact law
  · split
    · exact law
    · rename_i unused
      rw [ne_eq, not_not] at unused
      split
      · exact State.usageExact_setPlan law unused unused
      · exact law

theorem recordReplyBody_runsKept (p : Port) (member : Byte) (number : Half) (answer eta : Byte) (s : State) :
    s.runsKept (recordReplyBody p member number answer eta s).1 := by
  unfold recordReplyBody
  split
  · split
    · split
      · exact s.runsKept_refl
      · rename_i found
        split
        · exact s.runsKept_refl
        · split
          · exact s.runsKept_refl
          · exact State.runsKept_handleReply (State.lookup_some found).1 _
    · exact s.runsKept_refl
  · exact s.runsKept_refl

theorem markArrivedBody_runsKept (p : Port) (member : Byte) (number : Half) (s : State) :
    s.runsKept (markArrivedBody p member number s).1 := by
  unfold markArrivedBody
  split
  · exact s.runsKept_refl
  · split
    · split
      · exact s.runsKept_refl
      · rename_i found
        split
        · exact s.runsKept_refl
        · split
          · exact s.runsKept_refl
          · exact State.runsKept_handleReply (State.lookup_some found).1 _
    · exact s.runsKept_refl

theorem startChannelBody_runsKept (pins : SitePins) (s : State) : s.runsKept (startChannelBody pins s).1 := by
  unfold startChannelBody
  split
  · exact s.runsKept_refl
  · split
    · exact State.runsKept_trans (s.sameTables_changeChannel .running .start).runsKept (State.runsKept_openCycle _ true pins)
    · exact (s.sameTables_changeChannel .suspended .start).runsKept

theorem stopChannelBody_runsKept (s : State) : s.runsKept (stopChannelBody s).1 := by
  unfold stopChannelBody done
  split
  · exact (s.sameTables_changeChannel .stopping .stop).runsKept
  · dsimp only
    exact s.runsKept_stopChannel .stop
  · exact s.runsKept_refl

theorem setAvailabilityBody_runsKept (p : Port) (member availability : Byte) (s : State) :
    s.runsKept (setAvailabilityBody p member availability s).1 := by
  unfold setAvailabilityBody
  split
  · split <;> exact State.runsKept_of_eq rfl rfl
  · exact s.runsKept_refl

theorem State.runsKept_storeMember (s : State) (m : MemberIdx) (x : Member) : s.runsKept (s.storeMember m x) := by
  unfold State.storeMember
  split <;> exact State.runsKept_of_eq rfl rfl

theorem writeMemberBody_runsKept (p : Port) (member inUse kind : Byte) (address : Three) (toneGroup quals : Byte) (groups : Half)
    (eta availability : Byte) (s : State) :
    s.runsKept (writeMemberBody p member inUse kind address toneGroup quals groups eta availability s).1 := by
  unfold writeMemberBody
  split
  · exact s.runsKept_refl
  · split
    · exact s.runsKept_refl
    · split
      · exact s.runsKept_storeMember _ _
      · split
        · exact s.runsKept_refl
        · split
          · split
            · exact s.runsKept_refl
            · exact s.runsKept_storeMember _ _
          · exact s.runsKept_refl

theorem setChannelParametersBody_runsKept (station limit threshold mode level : Byte) (s : State) :
    s.runsKept (setChannelParametersBody station limit threshold mode level s).1 := by
  unfold setChannelParametersBody
  split
  · exact s.runsKept_refl
  · split
    · exact s.runsKept_refl
    · split <;> exact State.runsKept_of_eq rfl rfl

theorem selectSiteBody_runsKept (site : Byte) (s : State) : s.runsKept (selectSiteBody site s).1 := by
  unfold selectSiteBody
  split
  · exact s.runsKept_refl
  · exact (s.sameTables_select _ .request).runsKept

theorem State.runsKept_readNamed (s : State) (number : Half) (fields : SlotIdx → Callout → List Byte) :
    s.runsKept (s.readNamed number fields).1 := by
  unfold State.readNamed
  split <;> exact s.runsKept_refl

/-! ### Events -/

theorem execCalloutReply_runsKept (h : execCalloutReply s = .next t) : s.runsKept t := by
  cases h
  split
  · exact s.runsKept_refl
  · split
    · exact s.runsKept_refl
    · rename_i x rest _
      have dropped : s.runsKept { s with handOffs := rest } := State.runsKept_of_eq rfl rfl
      exact State.runsKept_trans dropped (State.runsKept_takeHandOff x)

theorem execHoldExpiry_runsKept (h : execHoldExpiry s = .next t) : s.runsKept t := by
  cases h
  split
  · exact s.runsKept_refl
  · split
    · rename_i k c found
      have held := (State.findSlot_some found).1
      split
      · rename_i run active
        exact State.runsKept_expireHold held (Callout.isActive_iff.2 ⟨run, active⟩) run
      · exact s.runsKept_refl
    · exact s.runsKept_refl

theorem execOneSecondTick_runsKept (h : execOneSecondTick s = .next t) : s.runsKept t := by
  cases h
  split
  · exact s.runsKept_refl
  · refine ⟨rfl, fun k => ?_⟩
    simp only [State.running, Fin.getElem_fin, Vector.getElem_map, Option.bind_map]
    exact congrArg (s.slots[k]).bind (funext Callout.running_ticked)

theorem execPlanPoint_runsKept (pins : SitePins) (h : execPlanPoint pins s = .next t) : s.runsKept t := by
  cases h
  split
  · split
    · exact s.runsKept_openCycle false pins
    · exact s.runsKept_stopChannel .endOfCycle
  · exact s.runsKept_refl

theorem execToneCallStart_runsKept (h : execToneCallStart s = .next t) : s.runsKept t := by
  cases h
  split
  · split
    · unfold State.startTone
      split <;> exact State.runsKept_of_eq rfl rfl
    · exact s.runsKept_refl
  · exact s.runsKept_refl

theorem execFrameAssembly_runsKept (h : execFrameAssembly s = .next t) : s.runsKept t := by
  cases h
  split
  · split <;> exact State.runsKept_of_eq rfl rfl
  · exact s.runsKept_refl

theorem execCompletion_runsKept (h : execCompletion s = .next t) : s.runsKept t := by
  cases h
  split
  · split
    · exact State.runsKept_complete _
    · exact s.runsKept_refl
  · exact s.runsKept_refl

theorem execReadyLoss_runsKept (site : Site) (h : execReadyLoss site s = .next t) : s.runsKept t := by
  cases h
  split
  · have sampled : s.runsKept { s with inputs := s.inputs.unready site } := State.runsKept_of_eq rfl rfl
    exact State.runsKept_trans (State.runsKept_trans sampled (State.runsKept_returnUnsent _)) (State.runsKept_of_eq rfl rfl)
  · exact s.runsKept_refl

theorem execCellEnd_runsKept (h : execCellEnd s = .next t) : s.runsKept t := by
  cases h
  split
  · split
    · split
      · exact s.runsKept_refl
      · exact State.runsKept_endCell _
    · exact s.runsKept_refl
  · exact s.runsKept_refl

theorem execRestoreGap_runsKept (h : execRestoreGap s = .next t) : s.runsKept t := by
  cases h
  split
  · exact s.runsKept_refl
  · split
    · exact s.runsKept_loseReference
    · split <;> exact State.runsKept_of_eq rfl rfl

theorem execRestored_runsKept (pins : SitePins) (h : execRestored pins s = .next t) : s.runsKept t := by
  cases h
  split
  · have restored : s.runsKept ({ s with
          sup := { s.sup with clock := .reference, restore := .idle }
          tx := { s.tx with restoreWord := true } }.raiseNotice .every
        (clockRestoredNotice s.sup.fallbackTicks s.channel.cycle)) := State.runsKept_of_eq rfl rfl
    dsimp only
    unfold State.resumeChannel
    split
    · have running := State.runsKept_trans restored (State.sameTables_changeChannel _ .running .clockRestored).runsKept
      exact State.runsKept_trans running (State.runsKept_openCycle _ true pins)
    · exact restored
  · exact s.runsKept_refl

/-! ### Every command -/

theorem exec_usageExact (c : Instr) (law : s.usageExact) (h : exec c s = .next t) : t.usageExact := by
  cases c with
  | raise => cases h; exact State.usageExact_takeRequest law (raiseBody_usageExact law _ _ _ _ _)
  | cancel => cases h; exact State.usageExact_takeRequest law (cancelBody_usageExact law _)
  | escalate => cases h; exact State.usageExact_takeRequest law (escalateBody_usageExact law _ _)
  | markDeparted => cases h; exact State.usageExact_takeRequest law (markDepartedBody_usageExact law _)
  | release => cases h; exact State.usageExact_takeRequest law (releaseBody_usageExact law _)
  | recordReply => cases h; exact State.usageExact_takeRequest_of_runsKept law (recordReplyBody_runsKept _ _ _ _ _ s)
  | markArrived => cases h; exact State.usageExact_takeRequest_of_runsKept law (markArrivedBody_runsKept _ _ _ s)
  | calloutReply => exact (execCalloutReply_runsKept h).usageExact law
  | setAvailability => cases h; exact State.usageExact_takeRequest_of_runsKept law (setAvailabilityBody_runsKept _ _ _ s)
  | writeMember => cases h; exact State.usageExact_takeRequest_of_runsKept law (writeMemberBody_runsKept _ _ _ _ _ _ _ _ _ _ s)
  | readMember p member =>
    cases h; refine State.usageExact_takeRequest_of_runsKept law ?_
    unfold readMemberBody; split <;> exact s.runsKept_refl
  | writePlanStep => cases h; exact State.usageExact_takeRequest law (writePlanStepBody_usageExact law _ _ _ _ _ _ _ _ _ _)
  | writeTemplate => cases h; exact State.usageExact_takeRequest law (writeTemplateBody_usageExact law _ _ _ _ _ _)
  | readPlan p plan =>
    cases h; refine State.usageExact_takeRequest_of_runsKept law ?_
    unfold readPlanBody; split <;> exact s.runsKept_refl
  | writeToneFrequency p i f =>
    cases h; refine State.usageExact_takeRequest_of_runsKept law ?_
    unfold writeToneFrequencyBody; split <;> exact State.runsKept_of_eq rfl rfl
  | writeTonePair p g a b =>
    cases h; refine State.usageExact_takeRequest_of_runsKept law ?_
    unfold writeTonePairBody; split <;> exact State.runsKept_of_eq rfl rfl
  | readToneTables => cases h; exact State.usageExact_takeRequest_of_runsKept law s.runsKept_refl
  | listCallouts => cases h; exact State.usageExact_takeRequest_of_runsKept law s.runsKept_refl
  | readCallout => cases h; exact State.usageExact_takeRequest_of_runsKept law (s.runsKept_readNamed _ _)
  | readResponders => cases h; exact State.usageExact_takeRequest_of_runsKept law (s.runsKept_readNamed _ _)
  | readCrew => cases h; exact State.usageExact_takeRequest_of_runsKept law (s.runsKept_readNamed _ _)
  | readNotice p =>
    cases h; refine State.usageExact_takeRequest_of_runsKept law ?_
    unfold readNoticeBody; dsimp only; split <;> exact State.runsKept_of_eq rfl rfl
  | readStatus => cases h; exact State.usageExact_takeRequest_of_runsKept law s.runsKept_refl
  | setChannelParameters =>
    cases h; exact State.usageExact_takeRequest_of_runsKept law (setChannelParametersBody_runsKept _ _ _ _ _ s)
  | startChannel => cases h; exact State.usageExact_takeRequest_of_runsKept law (startChannelBody_runsKept _ s)
  | stopChannel => cases h; exact State.usageExact_takeRequest_of_runsKept law (stopChannelBody_runsKept s)
  | selectSite => cases h; exact State.usageExact_takeRequest_of_runsKept law (selectSiteBody_runsKept _ s)
  | unknownRequest p code =>
    cases h; split <;> exact State.runsKept.usageExact (State.runsKept_of_eq rfl rfl) law
  | frameOpen p =>
    cases h; split <;> exact State.runsKept.usageExact (State.runsKept_of_eq rfl rfl) law
  | frameClose p =>
    cases h; split <;> exact State.runsKept.usageExact (State.runsKept_of_eq rfl rfl) law
  | oneSecondTick => exact (execOneSecondTick_runsKept h).usageExact law
  | holdExpiry => exact (execHoldExpiry_runsKept h).usageExact law
  | planPoint pins => exact (execPlanPoint_runsKept pins h).usageExact law
  | frameAssembly => exact (execFrameAssembly_runsKept h).usageExact law
  | toneCallStart => exact (execToneCallStart_runsKept h).usageExact law
  | completion => exact (execCompletion_runsKept h).usageExact law
  | keyedPeriodEnd =>
    cases h; split <;> exact State.runsKept.usageExact (State.runsKept_of_eq rfl rfl) law
  | readyLoss site => exact (execReadyLoss_runsKept site h).usageExact law
  | cellEnd => exact (execCellEnd_runsKept h).usageExact law
  | referenceLost =>
    cases h; split
    · exact s.runsKept_loseReference.usageExact law
    · exact law
  | restoreGap => exact (execRestoreGap_runsKept h).usageExact law
  | restored pins => exact (execRestored_runsKept pins h).usageExact law
  | reset => cases h; exact State.runsKept.usageExact (State.runsKept_of_eq rfl rfl) law
  | resetEnd pins =>
    cases h; split
    · exact State.usageExact_of_cleared (fun _ => Vector.getElem_replicate _) fun _ => Vector.getElem_replicate _
    · exact law
  | selfTestEnd results =>
    cases h; split
    · exact State.usageExact_of_cleared (fun _ => Vector.getElem_replicate _) fun _ => Vector.getElem_replicate _
    · exact law
  | symbolTime pins =>
    cases h; split
    · exact State.runsKept.usageExact (State.runsKept_advanceSymbol pins) law
    · exact law
  | sampleTime =>
    cases h; split <;> exact State.runsKept.usageExact (State.runsKept_of_eq rfl rfl) law

/-- Settles O20: a step keeps what the slots run, or moves one run together with its counts, or writes a plan that none runs, or
clears every table. -/
theorem usageCountsMatchActiveCallouts : Obligations.UsageCountsMatchActiveCallouts := by
  intro s t law h
  unfold step at h
  split at h
  · cases h
    have kept : s.runsKept s.clockPeriod := State.runsKept_of_frame s.clockPeriod_frame.1 rfl rfl
    exact kept.usageExact law
  · rename_i c rest _
    exact exec_usageExact (s := { s with pending := rest }) c law h

end Sys2Proof.Machine
end

section
/-! PROOF. The start of a step and the expiry of a hold (R25, R26, R41, R48, R49). -/

namespace Sys2Proof.Machine

open Sys2Proof

variable {s : State} {k : SlotIdx} {c : Callout}

/-! ### Conditions (R25) -/

theorem Condition.holds_iff {condition : Condition} {status : CrewStatus} : condition.holds status = true ↔
    condition = .always ∨ (condition = .ifShort ∧ status = .short) ∨
      (condition = .ifShortOrLate ∧ (status = .short ∨ status = .late)) := by
  cases condition <;> simp [Condition.holds]

/-! ### The start of a step (R41) -/

/-- The plan exhausted: its notice when the crew is Short, and the Exhausted run. -/
theorem State.exhaust_eq (s : State) (k : SlotIdx) (c : Callout) : s.exhaust k c =
    (if c.crew.status = .short then
        s.raiseNotice (s.interested c) ⟨.planExhausted, c.number, 255, byteOf c.crew.missing.officer,
          byteOf c.crew.missing.driver, byteOf c.crew.missing.wearer, byteOf c.crew.missing.crew⟩
      else s).setSlot k (some { c with lifecycle := .active ⟨.exhausted, 0, none⟩ }) := rfl

/-- The steps that the start of a step has before it: its own at the head. -/
theorem State.startStep_eq (s : State) (k : SlotIdx) (i : StepIdx) (c : Callout) :
    s.startStep k i c = s.startSteps k (s.plans[c.plan].steps[i] :: s.plans[c.plan].steps.toList.drop (i.val + 1)) i c := by
  have within : i.val < s.plans[c.plan].steps.toList.length := by
    rw [Vector.length_toList]
    exact i.isLt
  unfold State.startStep
  rw [List.drop_eq_getElem_cons within]
  rfl

theorem State.startStep_past (s : State) (k : SlotIdx) (c : Callout) : s.startStep k 8 c = s.exhaust k c.bumped := by
  have none : s.plans[c.plan].steps.toList.drop 8 = [] := by
    rw [List.drop_eq_nil_iff, Vector.length_toList]
  unfold State.startStep
  rw [none]
  rfl

theorem ofNat_stepIdx (i : StepIdx) : Fin.ofNat 8 i.val = i := Fin.ext (Nat.mod_eq_of_lt i.isLt)

theorem State.startStep_finish {i : StepIdx} (finish : s.plans[c.plan].steps[i] = .finish) :
    s.startStep k i c = s.exhaust k { c with serial := c.serial + 1, step := i } := by
  rw [State.startStep_eq, finish, State.startSteps, ofNat_stepIdx]
  rfl

section Act

variable {i : StepIdx} {action : Action} {condition : Condition} {hold repeats : Nat}
  (acts : s.plans[c.plan].steps[i] = .act action condition hold repeats)
include acts

theorem State.startStep_taken (holds : condition.holds c.crew.status = true) : s.startStep k i c =
    s.takeAction k { c with serial := c.serial + 1, step := i } ⟨.queued, repeats, action.rate⟩ action hold := by
  rw [State.startStep_eq, acts, State.startSteps, ofNat_stepIdx]
  exact if_pos holds

theorem State.startStep_passed (fails : ¬condition.holds c.crew.status = true) : s.startStep k i c =
    s.startStep k (i.val + 1)
      { c with serial := c.serial + 1, step := i, lifecycle := .active ⟨.queued, repeats, action.rate⟩ } := by
  rw [State.startStep_eq, acts, State.startSteps, ofNat_stepIdx]
  exact if_neg fails

end Act

/-- Settles O26: the plan's end, an End step, and a step passed on or taken. -/
theorem stepStartFollowsThePlan : Obligations.StepStartFollowsThePlan := by
  intro s k c
  refine ⟨(s.startStep_past k c).trans (s.exhaust_eq k _),
    fun i => ⟨fun finish => (State.startStep_finish finish).trans (s.exhaust_eq k _),
      fun action condition hold repeats acts => ⟨fun holds => ?_, fun fails => ?_⟩⟩⟩
  · exact State.startStep_taken acts (Condition.holds_iff.2 holds)
  · exact State.startStep_passed acts fun holds => fails (Condition.holds_iff.1 holds)

/-! ### The expiry of a hold (R48) -/

theorem Callout.isDue_iff {d : Callout} :
    d.isDue = true ↔ ∃ deadline repeats rate, d.lifecycle = .active ⟨.holding deadline true, repeats, rate⟩ := by
  constructor
  · intro due
    unfold Callout.isDue at due
    split at due
    · rename_i deadline ranOut repeats rate holding
      exact ⟨deadline, repeats, rate, due ▸ holding⟩
    · cases due
  · rintro ⟨deadline, repeats, rate, holding⟩
    simp only [Callout.isDue, holding]

/-- The hold that expires is that of the lowest slot whose hold has run out. -/
theorem exec_holdExpiry {run : ActiveRun} (released : s.sup.held = false) (held : s.slots[k] = some c) (due : c.isDue = true)
    (active : c.lifecycle = .active run) (lowest : ∀ j : SlotIdx, j < k → ∀ d ∈ s.slots[j], d.isDue = false) :
    exec .holdExpiry s = .next (s.expireHold k c run) := by
  show execHoldExpiry s = _
  simp only [execHoldExpiry, released, State.findSlot_eq held due lowest, active, Bool.false_eq_true, if_false]

theorem State.expireHold_act {run : ActiveRun} {action : Action} {condition : Condition} {hold n : Nat}
    (acts : s.plans[c.plan].steps[c.step] = .act action condition hold n) : s.expireHold k c run =
      if 0 < run.repeatsLeft ∧ condition.holds c.crew.status then
        s.takeAction k { c with serial := c.serial + 1 }
          { run with repeatsLeft := run.repeatsLeft - 1, rate := run.rate.map CodeRate.stronger } action hold
      else s.startStep k (c.step.val + 1) c := by
  unfold State.expireHold
  rw [acts]
  rfl

/-- Settles O34: the hold found, and its step repeated or left. -/
theorem holdExpiryRepeatsOrMovesOn : Obligations.HoldExpiryRepeatsOrMovesOn := by
  intro s k c deadline repeats rate released held holding lower isTrue action condition hold n acts
  have due : c.isDue = true := Callout.isDue_iff.2 ⟨deadline, repeats, rate, holding⟩
  have lowest : ∀ j : SlotIdx, j < k → ∀ d ∈ s.slots[j], d.isDue = false := fun j hj d hd => by
    rw [Bool.eq_false_iff]
    intro due
    obtain ⟨ended, m, r, early⟩ := Callout.isDue_iff.1 due
    exact lower j hj d hd ended m r early
  rw [exec_holdExpiry released held due holding lowest, State.expireHold_act acts]
  refine ⟨fun left holds => ?_, fun spent => ?_⟩
  · rw [if_pos ⟨left, Condition.holds_iff.2 holds⟩]
    cases rate with
    | none => rfl
    | some rate => cases rate <;> rfl
  · rw [if_neg]
    rintro ⟨left, holds⟩
    exact spent.elim (Nat.ne_of_gt left) fun fails => fails (Condition.holds_iff.1 holds)

end Sys2Proof.Machine
end

section
/-! PROOF. The plan table's requests (R23, R27, R28). -/

namespace Sys2Proof.Machine

open Sys2Proof

variable {s : State} {p : Port}

/-! ### Requests (R167, R170) -/

theorem State.takeRequest_station {body : State → Taken} (h : s.takes p) (station : (s.port p).cls = .station) :
    s.takeRequest p .stationOnly body = (body s).1.respond p (body s).2 :=
  State.takeRequest_taken h (fun _ => station) fun working => by cases working

/-- A Dispatch-class port is answered Class (R167 check 2). -/
theorem State.takeRequest_dispatch {body : State → Taken} (h : s.takes p) (dispatch : (s.port p).cls = .dispatch) :
    s.takeRequest p .stationOnly body = s.respond p [3] := by
  have refused : s.gate p .stationOnly = some .cls := by
    simp only [State.gate, h.2, dispatch]
    rfl
  exact State.takeRequest_stopped h.1 refused

/-- A request of any port that its rule refuses is answered with the result and has no effect. -/
theorem State.takeRequest_any_refused {body : State → Taken} {r : Result} (h : s.takes p) (refused : body s = refuse s r) :
    s.takeRequest p .any body = s.respond p [r.code] := by
  rw [State.takeRequest_any h, refused]
  rfl

/-- So is one of a Station-class port. -/
theorem State.takeRequest_station_refused {body : State → Taken} {r : Result} (h : s.takes p)
    (station : (s.port p).cls = .station) (refused : body s = refuse s r) :
    s.takeRequest p .stationOnly body = s.respond p [r.code] := by
  rw [State.takeRequest_station h station, refused]
  rfl

/-! ### Write template (R23) -/

/-- A clamp takes the nearest bound. -/
theorem clamp_eq {low high : Nat} (h : low ≤ high) (n : Nat) : clamp low high n = max low (min high n) := by
  unfold clamp
  split
  · omega
  · split <;> omega

/-- A template as its clamps store it, the crew total raised to the seats last (R23). -/
theorem storedTemplate_eq (officer driver wearer total : Byte) (target : Half) :
    storedTemplate officer.toNat driver.toNat wearer.toNat total.toNat target.toNat =
      ⟨officer.toNat, driver.toNat, wearer.toNat,
        max (if total = 0 then 1 else min 8 total.toNat) (officer.toNat + driver.toNat + wearer.toNat),
        max 60 (min 1800 target.toNat)⟩ := by
  have crew : clamp 1 8 total.toNat = if total = 0 then 1 else min 8 total.toNat := by
    rw [clamp_eq (by decide)]
    split
    · rename_i zero
      rw [zero]
      rfl
    · rename_i nonzero
      have positive : total.toNat ≠ 0 := fun h => nonzero (BitVec.eq_of_toNat_eq h)
      omega
  rw [storedTemplate, crew, clamp_eq (by decide)]

section Template

variable {i : PlanIdx} {officer driver wearer total : Byte} {target : Half}

theorem writeTemplateBody_index {plan : Byte} (h : 16 ≤ plan.toNat) :
    writeTemplateBody plan officer driver wearer total target s = refuse s .range := by
  simp only [writeTemplateBody, readIndex_none h]

theorem writeTemplateBody_used (used : s.plans[i].usage ≠ 0) :
    writeTemplateBody (byteOf i) officer driver wearer total target s = refuse s .state := by
  simp only [writeTemplateBody, readIndex_plan]
  exact if_pos used

theorem writeTemplateBody_unused (unused : s.plans[i].usage = 0) :
    writeTemplateBody (byteOf i) officer driver wearer total target s =
      if officer.toNat ≤ 1 ∧ driver.toNat ≤ 2 ∧ wearer.toNat ≤ 4 then
        done (s.setPlan i { s.plans[i] with
          template := storedTemplate officer.toNat driver.toNat wearer.toNat total.toNat target.toNat }) []
      else refuse s .range := by
  simp only [writeTemplateBody, readIndex_plan]
  exact if_neg (not_not.2 unused)

end Template

/-- Settles O17: the checks of R23 in order, and the template as its clamps leave it. -/
theorem writeTemplateClampsAndStores : Obligations.WriteTemplateClampsAndStores := by
  intro s p officer driver wearer total target h
  dsimp only
  refine ⟨fun dispatch plan => congrArg Host.Outcome.next (State.takeRequest_dispatch h dispatch), fun station => ?_⟩
  have taken : ∀ plan, exec (.writeTemplate p plan officer driver wearer total target) s =
      .next ((writeTemplateBody plan officer driver wearer total target s).1.respond p
        (writeTemplateBody plan officer driver wearer total target s).2) :=
    fun plan => congrArg Host.Outcome.next (State.takeRequest_station h station)
  refine ⟨fun plan out => ?_, fun i => ⟨fun used => ?_, fun unused seats => ?_, fun unused ho hd hw => ?_⟩⟩
  · rw [taken, writeTemplateBody_index out]
    rfl
  · rw [taken, writeTemplateBody_used used]
    rfl
  · rw [taken, writeTemplateBody_unused unused, if_neg (by omega)]
    rfl
  · rw [← storedTemplate_eq, taken, writeTemplateBody_unused unused, if_pos ⟨ho, hd, hw⟩]
    exact ⟨(storedTemplate_inRange ho hd hw).2, rfl⟩

/-! ### Write plan step (R27, R28) -/

/-- The rate that a byte codes (R188). -/
theorem readRate_eq_some {b : Byte} {r : CodeRate} : readRate b = some r ↔
    b = 0 ∧ r = .half ∨ b = 1 ∧ r = .twoThirds ∨ b = 2 ∧ r = .threeQuarters := by
  by_cases h0 : b = 0
  · subst h0; cases r <;> decide
  by_cases h1 : b = 1
  · subst h1; cases r <;> decide
  by_cases h2 : b = 2
  · subst h2; cases r <;> decide
  simp only [readRate, h0, h1, h2, if_false, false_and, or_self, reduceCtorEq]

/-- The condition that a byte codes (R188). -/
theorem readCondition_eq_some {b : Byte} {x : Condition} : readCondition b = some x ↔
    b = 0 ∧ x = .always ∨ b = 1 ∧ x = .ifShort ∨ b = 2 ∧ x = .ifShortOrLate := by
  by_cases h0 : b = 0
  · subst h0; cases x <;> decide
  by_cases h1 : b = 1
  · subst h1; cases x <;> decide
  by_cases h2 : b = 2
  · subst h2; cases x <;> decide
  simp only [readCondition, h0, h1, h2, if_false, false_and, or_self, reduceCtorEq]

/-- The bytes that code one of three values. -/
theorem byte_le_two {b : Byte} : b.toNat ≤ 2 ↔ b = 0 ∨ b = 1 ∨ b = 2 := by
  bv_omega

theorem readRate_isSome {b : Byte} : (readRate b).isSome = true ↔ b.toNat ≤ 2 := by
  simp only [Option.isSome_iff_exists, readRate_eq_some, byte_le_two, exists_or, exists_eq_right]

theorem readCondition_isSome {b : Byte} : (readCondition b).isSome = true ↔ b.toNat ≤ 2 := by
  simp only [Option.isSome_iff_exists, readCondition_eq_some, byte_le_two, exists_or, exists_eq_right]

theorem readIndex_eq_some {n : Nat} (hn : n ≤ 256) {b : Byte} {i : Fin n} : readIndex n b = some i ↔ b = byteOf i := by
  refine ⟨fun h => BitVec.eq_of_toNat_eq ?_, fun h => h ▸ readIndex_byteOf hn i⟩
  rw [readIndex_some h, toNat_byteOf (Nat.lt_of_lt_of_le i.isLt hn)]

section Step

variable {kind count toneGroup condition repeats rate : Byte} {groups hold : Half}

/-- The action that a Write plan step carries, kind by kind (R27 checks 3, 5 and 6, R28). -/
theorem readAction_eq_some {a : Action} : readAction kind groups count toneGroup rate = some a ↔
    kind = 1 ∧ groups.setWidth 12 ≠ 0#12 ∧ (∃ r, readRate rate = some r ∧ a = .groupPage (groups.setWidth 12) r) ∨
      kind = 2 ∧ (∃ r, readRate rate = some r ∧ a = .shortfallPage (clamp 1 16 count.toNat) r) ∨
      kind = 3 ∧ (∃ g, readIndex 16 toneGroup = some g ∧ a = .toneCall g) ∨ kind = 4 ∧ a = .aidRequest := by
  by_cases h1 : kind = 1
  · subst h1
    cases hr : readRate rate with
    | none => simp [readAction, hr]
    | some r =>
      by_cases hg : groups.setWidth 12 = 0#12 <;> simp [readAction, readGroups, hr, hg, eq_comm (a := a)]
  by_cases h2 : kind = 2
  · subst h2
    simp [readAction, eq_comm]
  by_cases h3 : kind = 3
  · subst h3
    simp [readAction, eq_comm]
  by_cases h4 : kind = 4
  · subst h4
    simp [readAction, eq_comm]
  simp only [readAction, h1, h2, h3, h4, if_false, false_and, or_self, reduceCtorEq]

/-- The step that a Write plan step carries (R27 checks 3 to 6, R28). -/
theorem readStep_eq_some {x : PlanStep} : readStep kind groups count toneGroup condition hold repeats rate = some x ↔
    kind = 0 ∧ x = .finish ∨
      kind ≠ 0 ∧ ∃ cond a, readCondition condition = some cond ∧ repeats.toNat ≤ 3 ∧
        x = .act a cond (clamp 10 900 hold.toNat) repeats.toNat ∧ readAction kind groups count toneGroup rate = some a := by
  unfold readStep
  by_cases h0 : kind = 0
  · simp only [h0, if_true, Option.some.injEq, true_and, ne_eq, not_true_eq_false, false_and, or_false, eq_comm (a := x)]
  · simp only [h0, if_false, false_and, ne_eq, not_false_eq_true, true_and, false_or]
    cases readAction kind groups count toneGroup rate with
    | none => simp
    | some a =>
      cases readCondition condition with
      | none => simp
      | some cond =>
        by_cases within : repeats.toNat ≤ 3 <;> simp [within, eq_comm (a := x)]

theorem readStep_finish {x : PlanStep} (carried : readStep kind groups count toneGroup condition hold repeats rate = some x) :
    x = .finish ↔ kind = 0 := by
  rcases readStep_eq_some.1 carried with ⟨zero, finish⟩ | ⟨nonzero, cond, a, -, -, acts, -⟩
  · exact iff_of_true finish zero
  · exact iff_of_false (acts ▸ PlanStep.noConfusion) nonzero

/-- A field that the kind of a step uses is out of range (R27 checks 3 to 6). -/
def fieldOutOfRange (kind : Byte) (groups : Half) (toneGroup condition repeats rate : Byte) : Prop :=
  4 < kind.toNat ∨ (kind ≠ 0 ∧ (2 < condition.toNat ∨ 3 < repeats.toNat)) ∨ ((kind = 1 ∨ kind = 2) ∧ 2 < rate.toNat) ∨
    (kind = 1 ∧ groups.setWidth 12 = 0#12) ∨ (kind = 3 ∧ 15 < toneGroup.toNat)

theorem readStep_outOfRange (bad : fieldOutOfRange kind groups toneGroup condition repeats rate) :
    readStep kind groups count toneGroup condition hold repeats rate = none := by
  refine Option.eq_none_iff_forall_ne_some.2 fun x carried => ?_
  unfold fieldOutOfRange at bad
  rcases readStep_eq_some.1 carried with ⟨zero, -⟩ | ⟨nonzero, cond, a, reads, within, -, acts⟩
  · bv_omega
  · have known : condition.toNat ≤ 2 := readCondition_isSome.1 (by rw [reads]; rfl)
    have rated : ∀ r, readRate rate = some r → rate.toNat ≤ 2 := fun r h => readRate_isSome.1 (by rw [h]; rfl)
    rcases readAction_eq_some.1 acts with ⟨one, grouped, r, hr, -⟩ | ⟨two, r, hr, -⟩ | ⟨three, g, hg, -⟩ | ⟨four, -⟩
    · have := rated r hr
      bv_omega
    · have := rated r hr
      bv_omega
    · have := readIndex_some hg
      have := g.isLt
      bv_omega
    · bv_omega

theorem readStep_withinRange (good : ¬fieldOutOfRange kind groups toneGroup condition repeats rate) :
    ∃ x, readStep kind groups count toneGroup condition hold repeats rate = some x := by
  simp only [fieldOutOfRange, not_or, not_and, not_lt] at good
  obtain ⟨known, used, rated, grouped, toned⟩ := good
  by_cases zero : kind = 0
  · exact ⟨.finish, readStep_eq_some.2 (.inl ⟨zero, rfl⟩)⟩
  obtain ⟨cond, reads⟩ := Option.isSome_iff_exists.1 (readCondition_isSome.2 (used zero).1)
  have acts : ∃ a, readAction kind groups count toneGroup rate = some a := by
    have kinds : kind = 1 ∨ kind = 2 ∨ kind = 3 ∨ kind = 4 := by bv_omega
    rcases kinds with one | two | three | four
    · obtain ⟨r, hr⟩ := Option.isSome_iff_exists.1 (readRate_isSome.2 (rated (.inl one)))
      exact ⟨_, readAction_eq_some.2 (.inl ⟨one, grouped one, r, hr, rfl⟩)⟩
    · obtain ⟨r, hr⟩ := Option.isSome_iff_exists.1 (readRate_isSome.2 (rated (.inr two)))
      exact ⟨_, readAction_eq_some.2 (.inr (.inl ⟨two, r, hr, rfl⟩))⟩
    · have tone : readIndex 16 toneGroup = some ⟨toneGroup.toNat, Nat.lt_succ_of_le (toned three)⟩ := dif_pos _
      exact ⟨_, readAction_eq_some.2 (.inr (.inr (.inl ⟨three, _, tone, rfl⟩)))⟩
    · exact ⟨_, readAction_eq_some.2 (.inr (.inr (.inr ⟨four, rfl⟩)))⟩
  obtain ⟨a, acts⟩ := acts
  exact ⟨_, readStep_eq_some.2 (.inr ⟨zero, cond, a, reads, (used zero).2, rfl, acts⟩)⟩

theorem writePlanStepBody_index {plan step : Byte} (h : 16 ≤ plan.toNat ∨ 8 ≤ step.toNat) :
    writePlanStepBody plan step kind groups count toneGroup condition hold repeats rate s = refuse s .range := by
  unfold writePlanStepBody
  split
  · rename_i hi hj
    rcases h with h | h
    · rw [readIndex_none h] at hi; cases hi
    · rw [readIndex_none h] at hj; cases hj
  · rfl

variable {i : PlanIdx} {j : StepIdx}

theorem writePlanStepBody_used (used : s.plans[i].usage ≠ 0) :
    writePlanStepBody (byteOf i) (byteOf j) kind groups count toneGroup condition hold repeats rate s = refuse s .state := by
  simp only [writePlanStepBody, readIndex_plan, readIndex_step]
  exact if_pos used

theorem writePlanStepBody_range (unused : s.plans[i].usage = 0)
    (none : readStep kind groups count toneGroup condition hold repeats rate = none) :
    writePlanStepBody (byteOf i) (byteOf j) kind groups count toneGroup condition hold repeats rate s = refuse s .range := by
  simp only [writePlanStepBody, readIndex_plan, readIndex_step, none]
  exact if_neg (not_not.2 unused)

/-- A step in range is stored, unless it would make a plan with an unwritten template runnable (R27 check 7, R28). -/
theorem writePlanStepBody_carried {x : PlanStep} (unused : s.plans[i].usage = 0)
    (carried : readStep kind groups count toneGroup condition hold repeats rate = some x) :
    writePlanStepBody (byteOf i) (byteOf j) kind groups count toneGroup condition hold repeats rate s =
      if j = 0 ∧ x ≠ .finish ∧ s.plans[i].template.written = false then refuse s .state
      else done (s.setPlan i { s.plans[i] with steps := s.plans[i].steps.set j x }) [] := by
  simp only [writePlanStepBody, readIndex_plan, readIndex_step, carried]
  exact if_neg (not_not.2 unused)

end Step

/-- Settles O18: the checks of R27 in order, and the step that its fields carry stored alone. -/
theorem writePlanStepStoresItsKind : Obligations.WritePlanStepStoresItsKind := by
  intro s p kind groups count toneGroup condition hold repeats rate h
  dsimp only
  refine ⟨fun dispatch plan step => congrArg Host.Outcome.next (State.takeRequest_dispatch h dispatch), fun station => ?_⟩
  have taken : ∀ plan step, exec (.writePlanStep p plan step kind groups count toneGroup condition hold repeats rate) s =
      .next ((writePlanStepBody plan step kind groups count toneGroup condition hold repeats rate s).1.respond p
        (writePlanStepBody plan step kind groups count toneGroup condition hold repeats rate s).2) :=
    fun plan step => congrArg Host.Outcome.next (State.takeRequest_station h station)
  refine ⟨fun plan step out => ?_, fun i j => ⟨fun used => ?_, fun unused bad => ?_, fun unused good first acts unwritten => ?_,
    fun x unused written fields => ?_⟩⟩
  · rw [taken, writePlanStepBody_index out]
    rfl
  · rw [taken, writePlanStepBody_used used]
    rfl
  · rw [taken, writePlanStepBody_range unused (readStep_outOfRange bad)]
    rfl
  · obtain ⟨x, carried⟩ := readStep_withinRange (count := count) (hold := hold) good
    rw [taken, writePlanStepBody_carried unused carried, if_pos ⟨first, fun finish => acts ((readStep_finish carried).1 finish),
      unwritten⟩]
    rfl
  · have carried : readStep kind groups count toneGroup condition hold repeats rate = some x := by
      rw [readStep_eq_some]
      refine fields.imp_right ?_
      rintro ⟨cond, a, coded, within, rfl, action⟩
      have nonzero : kind ≠ 0 := by
        rcases action with ⟨rfl, -⟩ | ⟨rfl, -⟩ | ⟨rfl, -⟩ | ⟨rfl, -⟩ <;> decide
      refine ⟨nonzero, cond, a, readCondition_eq_some.2 coded, within, by rw [clamp_eq (by decide)], ?_⟩
      simp only [readAction_eq_some, readRate_eq_some, clamp_eq (show 1 ≤ 16 by decide),
        readIndex_eq_some (show 16 ≤ 256 by decide)]
      exact action
    rw [taken, writePlanStepBody_carried unused carried, if_neg]
    · rfl
    · rintro ⟨first, acts, unwritten⟩
      rw [written first fun zero => acts ((readStep_finish carried).2 zero)] at unwritten
      cases unwritten

end Sys2Proof.Machine
end

section
/-! PROOF. The refusals of Escalate, Cancel, Mark departed and Release (R50, R53, R55, R56). -/

namespace Sys2Proof.Machine

open Sys2Proof

variable {s : State} {p : Port} {n : Half} {k : SlotIdx} {c : Callout} {effect : SlotIdx → Callout → Taken}

/-! ### The checks that Escalate, Cancel and Release share (R50) -/

theorem State.permitted_unnamed (none : s.lookup n = none) : s.permitted p n effect = refuse s .state := by
  simp only [State.permitted, none]

theorem State.permitted_foreign (named : s.lookup n = some (k, c)) (dispatch : (s.port p).cls = .dispatch)
    (foreign : c.origins.has p = false) : s.permitted p n effect = refuse s .cls := by
  simp only [State.permitted, named, dispatch, foreign, reduceCtorEq, decide_false, Bool.or_self, Bool.false_eq_true, if_false]

theorem State.permitted_allowed (named : s.lookup n = some (k, c))
    (allowed : (s.port p).cls = .station ∨ c.origins.has p = true) : s.permitted p n effect = effect k c := by
  simp only [State.permitted, named, Bool.or_eq_true, decide_eq_true_eq, allowed, if_true]

theorem Plan.runnable_iff {x : Plan} : x.runnable = true ↔ x.steps[0] ≠ .finish := decide_eq_true_iff

/-! ### Each request's own check -/

section Allowed

variable (named : s.lookup n = some (k, c)) (allowed : (s.port p).cls = .station ∨ c.origins.has p = true)
include named allowed

theorem escalateBody_inactive {plan : Byte} (inactive : c.isActive = false) :
    escalateBody p n plan s = refuse s .state := by
  rw [escalateBody, State.permitted_allowed named allowed, inactive]
  rfl

theorem escalateBody_unfit {plan : Byte} (active : c.isActive = true)
    (unfit : 16 ≤ plan.toNat ∨ ∃ i : PlanIdx, plan = byteOf i ∧ s.plans[i].runnable = false) :
    escalateBody p n plan s = refuse s .range := by
  rw [escalateBody, State.permitted_allowed named allowed, if_pos active]
  rcases unfit with out | ⟨i, rfl, idle⟩
  · simp only [readIndex_none out]
  · simp only [readIndex_plan, idle, Bool.false_eq_true, if_false]

theorem cancelBody_inactive (inactive : c.isActive = false) : cancelBody p n s = refuse s .state := by
  rw [cancelBody, State.permitted_allowed named allowed, inactive]
  rfl

theorem releaseBody_undeparted (undeparted : c.lifecycle ≠ .departed) : releaseBody p n s = refuse s .state := by
  rw [releaseBody, State.permitted_allowed named allowed]
  split
  · rename_i departed
    exact absurd departed undeparted
  · rfl

end Allowed

theorem markDepartedBody_unnamed (none : s.lookup n = none) : markDepartedBody n s = refuse s .state := by
  simp only [markDepartedBody, none]

theorem markDepartedBody_inactive (named : s.lookup n = some (k, c)) (inactive : c.isActive = false) :
    markDepartedBody n s = refuse s .state := by
  simp only [markDepartedBody, named, inactive, Bool.false_eq_true, if_false]

/-- Settles O32, check by check. -/
theorem lifecycleRequestsAreRefusedInOrder : Obligations.LifecycleRequestsAreRefusedInOrder := by
  refine ⟨fun c => Callout.isActive_iff, fun x => Plan.runnable_iff, fun s p n plan h => ?_⟩
  have any : ∀ {command r} body, exec command s = .next (s.takeRequest p .any body) → body s = refuse s r →
      exec command s = .next (s.respond p [r.code]) :=
    fun _ request refused => request.trans (congrArg _ (State.takeRequest_any_refused h refused))
  have departed : ∀ {r}, (s.port p).cls = .station → markDepartedBody n s = refuse s r →
      exec (.markDeparted p n) s = .next (s.respond p [r.code]) :=
    fun station refused => congrArg Host.Outcome.next (State.takeRequest_station_refused h station refused)
  refine ⟨fun none => ⟨?_, ?_, ?_, fun station => ?_⟩, fun k c named => ⟨fun dispatch foreign => ⟨?_, ?_, ?_⟩,
    fun allowed => ⟨fun inactive => ⟨?_, ?_⟩, fun undeparted => ?_, fun active unfit => ?_⟩, fun station inactive => ?_⟩⟩
  · exact any (escalateBody p n plan) rfl (State.permitted_unnamed none)
  · exact any (cancelBody p n) rfl (State.permitted_unnamed none)
  · exact any (releaseBody p n) rfl (State.permitted_unnamed none)
  · exact departed station (markDepartedBody_unnamed none)
  · exact any (escalateBody p n plan) rfl (State.permitted_foreign named dispatch foreign)
  · exact any (cancelBody p n) rfl (State.permitted_foreign named dispatch foreign)
  · exact any (releaseBody p n) rfl (State.permitted_foreign named dispatch foreign)
  · exact any _ rfl (escalateBody_inactive named allowed inactive)
  · exact any _ rfl (cancelBody_inactive named allowed inactive)
  · exact any _ rfl (releaseBody_undeparted named allowed undeparted)
  · exact any _ rfl (escalateBody_unfit named allowed active unfit)
  · exact departed station (markDepartedBody_inactive named inactive)

end Sys2Proof.Machine
end

section
/-! PROOF. The number of an allocation: the first whose tag is free, at most seven further on (R37). -/

namespace Sys2Proof.Machine

open Sys2Proof

variable {s : State}

/-! ### The numbers after the serial counter -/

theorem toNat_nextNumber (n : Half) : (nextNumber n).toNat = if n.toNat = 65535 then 1 else n.toNat + 1 := by
  have bound := n.isLt
  have last : n = 65535 ↔ n.toNat = 65535 := BitVec.toNat_inj.symm
  unfold nextNumber
  simp only [last]
  split
  · rfl
  · rw [BitVec.toNat_add]
    exact Nat.mod_eq_of_lt (by change n.toNat + 1 < 65536; omega)

theorem nextNumber_ne_zero (n : Half) : nextNumber n ≠ 0 := by
  have value := toNat_nextNumber n
  intro zero
  rw [zero] at value
  split at value
  · cases value
  · exact absurd value (by simp)

theorem iterate_nextNumber_ne_zero (i : Nat) {n : Half} (nonzero : n ≠ 0) : nextNumber^[i] n ≠ 0 := by
  cases i with
  | zero => exact nonzero
  | succ i => rw [Function.iterate_succ_apply']; exact nextNumber_ne_zero _

/-- The numbers count up to 65,535 and go on from 1 (R37). -/
theorem toNat_iterate_nextNumber {i : Nat} (near : i < 64) (n : Half) :
    (nextNumber^[i] n).toNat = if n.toNat + i ≤ 65535 then n.toNat + i else n.toNat + i - 65535 := by
  have bound := n.isLt
  induction i with
  | zero => rw [if_pos (by omega)]; rfl
  | succ i ih =>
    rw [Function.iterate_succ_apply', toNat_nextNumber, ih (by omega)]
    split_ifs <;> omega

theorem toNat_tagOf (n : Half) : (tagOf n).toNat = n.toNat % 64 := BitVec.toNat_setWidth ..

/-- Eight numbers in a row have eight tags, over the wrap too: the number 0, which it leaves out, is a whole round of tags from
65,536 (R37). -/
theorem tagOf_iterate_inj {n : Half} {i j : Nat} (hi : i < 8) (hj : j < 8)
    (same : tagOf (nextNumber^[i] n) = tagOf (nextNumber^[j] n)) : i = j := by
  have tags := congrArg BitVec.toNat same
  rw [toNat_tagOf, toNat_tagOf, toNat_iterate_nextNumber (by omega), toNat_iterate_nextNumber (by omega)] at tags
  have bound := n.isLt
  split_ifs at tags <;> omega

/-! ### The number taken -/

theorem State.tagInUse_iff {tag : BitVec 6} :
    s.tagInUse tag = true ↔ ∃ j : SlotIdx, ∃ d ∈ s.slots[j], tagOf d.number = tag := by
  rw [State.tagInUse, ← not_iff_not, Bool.not_eq_true, Option.isSome_eq_false_iff, Option.isNone_iff_eq_none,
    State.findSlot_none]
  simp

/-- The search passes over the numbers whose tags are in use, as far as its tries go (R37). -/
theorem State.candidateNumber_eq (s : State) (tries : Nat) (n : Half) :
    ∃ i ≤ tries, s.candidateNumber tries n = nextNumber^[i] n ∧ (∀ j < i, s.tagInUse (tagOf (nextNumber^[j] n)) = true) ∧
      (i < tries → s.tagInUse (tagOf (nextNumber^[i] n)) = false) := by
  induction tries generalizing n with
  | zero => exact ⟨0, le_rfl, rfl, fun j hj => absurd hj (Nat.not_lt_zero j), fun h => absurd h (Nat.lt_irrefl 0)⟩
  | succ tries ih =>
    unfold State.candidateNumber
    by_cases used : s.tagInUse (tagOf n) = true
    · obtain ⟨i, within, taken, passed, free⟩ := ih (nextNumber n)
      rw [if_pos used]
      refine ⟨i + 1, by omega, taken, fun j hj => ?_, fun h => free (by omega)⟩
      cases j with
      | zero => exact used
      | succ j => exact passed j (by omega)
    · rw [if_neg used]
      exact ⟨0, Nat.zero_le _, rfl, fun j hj => absurd hj (Nat.not_lt_zero j), fun _ => by simpa using used⟩

/-- With a Free slot, at most seven tags are in use, so one of eight numbers in a row has a free one (R37). -/
theorem State.exists_tag_free {k : SlotIdx} (free : s.slots[k] = none) (n : Half) :
    ∃ i < 8, s.tagInUse (tagOf (nextNumber^[i] n)) = false := by
  by_contra none
  push Not at none
  have holder : ∀ i : Fin 8, ∃ j : SlotIdx, ∃ d ∈ s.slots[j], tagOf d.number = tagOf (nextNumber^[i.val] n) :=
    fun i => State.tagInUse_iff.1 (by simpa using none i i.isLt)
  choose slot d held tag using holder
  have inj : Function.Injective slot := by
    intro i j same
    have both := (Option.mem_def.1 (held i)).symm.trans ((congrArg (fun x : SlotIdx => s.slots[x]) same).trans (held j))
    exact Fin.ext (tagOf_iterate_inj i.isLt j.isLt (by rw [← tag i, ← tag j, Option.some.inj both]))
  obtain ⟨i, rfl⟩ := (Finite.injective_iff_surjective.1 inj) k
  have occupied := held i
  rw [free] at occupied
  cases occupied

/-- The number of an allocation: at most seven further on than the serial counter, the first whose tag is free (R37). -/
theorem State.newNumber_spec {k : SlotIdx} (free : s.slots[k] = none) :
    ∃ i ≤ 7, s.newNumber = nextNumber^[i] s.serialCounter ∧
      (∀ j < i, s.tagInUse (tagOf (nextNumber^[j] s.serialCounter)) = true) ∧ s.tagInUse (tagOf s.newNumber) = false := by
  obtain ⟨i, within, taken, passed, last⟩ := s.candidateNumber_eq 7 s.serialCounter
  refine ⟨i, within, taken, passed, ?_⟩
  obtain ⟨j, near, unused⟩ := State.exists_tag_free free s.serialCounter
  have beyond : ¬j < i := fun h => Bool.false_ne_true (unused.symm.trans (passed j h))
  rw [State.newNumber, taken]
  rcases Nat.lt_or_ge i 7 with h | h
  · exact last h
  · obtain rfl : i = j := by omega
    exact unused

theorem State.newNumber_ne_zero (counter : s.serialCounter ≠ 0) : s.newNumber ≠ 0 := by
  obtain ⟨i, -, taken, -⟩ := s.candidateNumber_eq 7 s.serialCounter
  rw [State.newNumber, taken]
  exact iterate_nextNumber_ne_zero i counter

/-- Settles O24: the first of eight numbers whose tag is free. -/
theorem numbersPassOverTagsInUse : Obligations.NumbersPassOverTagsInUse := by
  refine ⟨fun n => ⟨rfl, toNat_tagOf n⟩, fun s k counter free => ?_⟩
  obtain ⟨i, within, taken, passed, unused⟩ := State.newNumber_spec free
  refine ⟨State.newNumber_ne_zero counter, fun j d held same => ?_, i, within, taken,
    fun j hj => State.tagInUse_iff.1 (passed j hj)⟩
  rw [State.tagInUse_iff.2 ⟨j, d, held, same⟩] at unused
  cases unused

end Sys2Proof.Machine
end

section
/-! PROOF. What the operations of the tables leave of the callouts' numbers and references and of the serial counter (R33, R37). -/

namespace Sys2Proof.Machine

open Sys2Proof

variable {s t u : State} {k : SlotIdx} {c d : Callout}

/-! ### Names -/

/-- A callout under the number and the reference of another. -/
def Callout.sameName (c d : Callout) : Prop := d.number = c.number ∧ d.reference = c.reference

theorem Callout.sameName_trans {c d e : Callout} (h : c.sameName d) (g : d.sameName e) : c.sameName e :=
  ⟨g.1.trans h.1, g.2.trans h.2⟩

theorem Callout.sameButRun.sameName (h : c.sameButRun d) : c.sameName d := by
  obtain ⟨number, reference, -⟩ := h
  exact ⟨number, reference⟩

theorem Callout.sameName_withProgress (c : Callout) (p : Progress) : c.sameName (c.withProgress p) := by
  unfold Callout.withProgress
  split <;> exact ⟨rfl, rfl⟩

theorem Callout.sameName_ticked (c : Callout) : c.sameName c.ticked := by
  unfold Callout.ticked
  dsimp only
  split <;> exact ⟨rfl, rfl⟩

theorem Turn.sameName_left (t : Turn) : t.callout.sameName t.left := by
  unfold Turn.left
  split
  · exact ⟨rfl, rfl⟩
  · split
    · split
      · exact t.callout.sameName_withProgress .alerting
      · exact ⟨rfl, rfl⟩
    · exact ⟨rfl, rfl⟩

theorem State.sameName_advance (s : State) (c : Callout) : c.sameName (s.advance c) := by
  unfold State.advance
  split
  · exact ⟨rfl, rfl⟩
  · split
    · split
      · exact c.sameName_withProgress _
      · exact ⟨rfl, rfl⟩
    · exact c.sameName_withProgress .queued

/-- A slot holds a callout under the name of this one. -/
def State.names (s : State) (k : SlotIdx) (c : Callout) : Prop := ∃ d ∈ s.slots[k], d.sameName c

theorem State.names_of_held (held : s.slots[k] = some c) (same : c.sameName d) : s.names k d := ⟨c, held, same⟩

theorem State.everyCallout_names (s : State) : s.everyCallout s.names := fun _ c held => ⟨c, held, rfl, rfl⟩

/-! ### What gives no callout a name -/

/-- No slot holds a callout under a name that it did not hold, and the serial counter stands. -/
structure State.namesKept (s t : State) : Prop where
  counter : t.serialCounter = s.serialCounter
  callouts : t.everyCallout s.names

theorem State.namesKept_refl (s : State) : s.namesKept s := ⟨rfl, s.everyCallout_names⟩

theorem State.namesKept_trans (h : s.namesKept t) (g : t.namesKept u) : s.namesKept u := by
  refine ⟨g.counter.trans h.counter, fun k c held => ?_⟩
  obtain ⟨d, held, name⟩ := g.callouts k c held
  obtain ⟨e, held, name'⟩ := h.callouts k d held
  exact ⟨e, held, Callout.sameName_trans name' name⟩

theorem State.namesKept_of_eq (counter : t.serialCounter = s.serialCounter) (slots : t.slots = s.slots) : s.namesKept t :=
  ⟨counter, (State.everyCallout_of_slots slots).2 s.everyCallout_names⟩

/-- A frame equation, which says that a state with other fields of `t` put back is `s`, carries the names over. -/
theorem State.namesKept_of_frame (frame : u = s) (counter : t.serialCounter = u.serialCounter) (slots : t.slots = u.slots) :
    s.namesKept t :=
  frame ▸ State.namesKept_of_eq counter slots

/-- What the operations did before touched neither the slots nor the counter. -/
theorem State.namesKept.after (kept : u.namesKept t) (counter : u.serialCounter = s.serialCounter) (slots : u.slots = s.slots) :
    s.namesKept t :=
  State.namesKept_trans (State.namesKept_of_eq counter slots) kept

theorem State.noticed.namesKept (h : s.noticed t) : s.namesKept t := State.namesKept_of_frame h.1 rfl rfl

/-- Kept names keep the law: two callouts that share a tag or a reference shared it before. -/
theorem State.namesKept.tagsDistinct (kept : s.namesKept t) (law : s.tagsDistinct) : t.tagsDistinct := by
  obtain ⟨counter, nonzero, distinct⟩ := law
  refine ⟨kept.counter ▸ counter, fun k c held => ?_, fun k j c held d held' shared => ?_⟩
  · obtain ⟨c₀, before, number, reference⟩ := kept.callouts k c held
    rw [number, reference]
    exact nonzero k c₀ before
  · obtain ⟨c₀, before, number, reference⟩ := kept.callouts k c held
    obtain ⟨d₀, before', number', reference'⟩ := kept.callouts j d held'
    rw [number, reference, number', reference'] at shared
    exact distinct k j c₀ before d₀ before' shared

/-- With every slot Free there is nothing to tell apart (R34). -/
theorem State.tagsDistinct_of_cleared (counter : t.serialCounter = 1) (slots : ∀ k : SlotIdx, t.slots[k] = none) :
    t.tagsDistinct := by
  have no : ∀ (k : SlotIdx) (c : Callout), c ∉ t.slots[k] := fun k c held => by
    rw [slots k] at held
    cases held
  exact ⟨by rw [counter]; decide, fun k c held => absurd held (no k c), fun k _ c held => absurd held (no k c)⟩

/-! ### Slots -/

theorem State.namesKept_setSlot (held : s.slots[k] = some c) (same : c.sameName d) : s.namesKept (s.setSlot k (some d)) :=
  ⟨rfl, State.everyCallout_setSlot_some (s.everyCallout_names.others k) (State.names_of_held held same)⟩

theorem State.namesKept_free (s : State) (k : SlotIdx) (c : Callout) (why : FreedReason) : s.namesKept (s.free k c why) :=
  ⟨rfl, State.everyCallout_free k (s.everyCallout_names.others k) c why⟩

/-- Writing back replaces one slot (R100). -/
theorem State.namesKept_settle (held : s.slots[k] = some c) (same : c.sameName d) : s.namesKept (s.settle k d) :=
  ⟨Eq.trans (b := ({ s.settle k d with roster := s.roster, slots := s.slots } : State).serialCounter) rfl
      (congrArg State.serialCounter (s.settle_frame k d).1),
    State.everyCallout_settle (s.everyCallout_names.others k) (State.names_of_held held same)⟩

/-- Notices, then a slot replaced under its name. -/
theorem State.namesKept_told (told : s.noticed u) (held : s.slots[k] = some c) (same : c.sameName d) :
    s.namesKept (u.setSlot k (some d)) :=
  State.namesKept_trans told.namesKept (State.namesKept_setSlot (by simpa only [told.sameTables.slots] using held) same)

/-! ### The engine's operations -/

theorem State.namesKept_startStep (held : s.slots[k] = some c) (same : c.sameName d) (i : Nat) :
    s.namesKept (s.startStep k i d) := by
  obtain ⟨u, d', told, started, still, -⟩ := s.startStep_effect k i d
  exact started ▸ State.namesKept_told told held (Callout.sameName_trans same still.sameName)

theorem State.namesKept_expireHold (held : s.slots[k] = some c) (run : ActiveRun) : s.namesKept (s.expireHold k c run) := by
  obtain ⟨u, d, told, expired, still, -⟩ := s.expireHold_effect k c run
  exact expired ▸ State.namesKept_told told held still.sameName

theorem State.namesKept_escalateTo (held : s.slots[k] = some c) (i : PlanIdx) : s.namesKept (s.escalateTo k c i) := by
  unfold State.escalateTo
  dsimp only
  generalize moved : (if i = c.plan then s else (s.leavePlan c.plan).takeUpPlan i) = v
  have kept : s.namesKept v := by
    rw [← moved]
    split
    · exact s.namesKept_refl
    · exact State.namesKept_of_eq rfl rfl
  have slots : v.slots = s.slots := by
    rw [← moved]
    split <;> rfl
  generalize hd : v.evaluated { c.bumped with queue := [], plan := i } = d
  have same : c.sameName d := hd ▸ ⟨rfl, rfl⟩
  have settled : v.namesKept (v.settle k d) := State.namesKept_settle (by simpa only [slots] using held) same
  have written : (v.settle k d).slots[k] = some d :=
    (congrArg (fun x : Vector (Option Callout) 8 => x[k]) (v.settle_frame k d).2).trans (v.slots_setSlot_self k _)
  have told := (v.settle k d).noticed_raiseCrewStatus c.crew d
  refine State.namesKept_trans (State.namesKept_trans (State.namesKept_trans kept settled) told.namesKept) ?_
  exact State.namesKept_startStep (by simpa only [told.sameTables.slots] using written) ⟨rfl, rfl⟩ 0

theorem State.namesKept_cancelCallout (held : s.slots[k] = some c) : s.namesKept (s.cancelCallout k c) := by
  have freed : s.namesKept ((s.disengage (Engagement.isTo c.number)).leavePlan c.plan) := State.namesKept_of_eq rfl rfl
  unfold State.cancelCallout
  dsimp only
  refine State.namesKept_trans freed ?_
  split
  · exact State.namesKept_setSlot (s := (s.disengage _).leavePlan _) held ⟨rfl, rfl⟩
  · exact State.namesKept_free _ k c .cancelled

theorem State.namesKept_depart (held : s.slots[k] = some c) : s.namesKept (s.depart k c) := by
  have freed : s.namesKept ((s.disengage fun e => e = .responding c.number).leavePlan c.plan) := State.namesKept_of_eq rfl rfl
  refine State.namesKept_trans (State.namesKept_trans freed ?_) (State.noticed_raiseNotice _ _ _).namesKept
  exact State.namesKept_setSlot (s := (s.disengage _).leavePlan _) held ⟨rfl, rfl⟩

theorem State.namesKept_releaseCallout (s : State) (k : SlotIdx) (c : Callout) : s.namesKept (s.releaseCallout k c) :=
  State.namesKept_trans (State.namesKept_of_eq (t := s.disengage _) rfl rfl) (State.namesKept_free _ k c .released)

theorem State.namesKept_merge (held : s.slots[k] = some c) (p : Port) (priority : BitVec 3) :
    s.namesKept (s.merge p k c priority) := by
  refine State.namesKept_trans ?_ (State.noticed_raiseNotice _ _ _).namesKept
  exact State.namesKept_setSlot held ⟨rfl, rfl⟩

/-! ### Replies -/

theorem State.namesKept_record (held : s.slots[k] = some c) (r : Reply) (a : Answer) (mark : Bool) (room : Room) :
    s.namesKept (s.record k c r a mark room) := by
  have frame := (s.engageReply_frame c.number r.member a mark).1
  have engaged : s.namesKept (s.engageReply c.number r.member a mark) := State.namesKept_of_frame frame rfl rfl
  have slots := congrArg State.slots frame
  have still : (s.engageReply c.number r.member a mark).slots[k] = some c :=
    (congrArg (fun v : Vector (Option Callout) 8 => v[k]) slots).trans held
  refine State.namesKept_trans (State.namesKept_trans engaged ?_) (s.record_effect k c r a mark room).namesKept
  exact State.namesKept_settle still ⟨rfl, rfl⟩

theorem State.namesKept_withdraw (held : s.slots[k] = some d) (r : Reply) : s.namesKept (s.withdraw k d r) := by
  have engaged : s.namesKept (s.engage r.member .free) := State.namesKept_of_eq rfl rfl
  refine State.namesKept_trans (State.namesKept_trans engaged ?_) (s.withdraw_effect k d r).namesKept
  exact State.namesKept_settle (c := d) held ⟨rfl, rfl⟩

theorem State.namesKept_handleReply (held : s.slots[k] = some c) (r : Reply) : s.namesKept (s.handleReply k c r).1 := by
  have outcomes := s.handleReply_cases k c r
  dsimp only at outcomes
  rcases outcomes with ⟨-, h⟩ | ⟨-, h⟩ | ⟨-, (⟨kd, d, hw, h⟩ | ⟨-, h⟩ | ⟨-, h⟩)⟩ <;> rw [h]
  · exact (State.noticed_raiseNotice _ _ _).namesKept
  · exact s.namesKept_refl
  · obtain ⟨hd, hn⟩ := State.weigh_withdrawing hw
    have other : k ≠ kd := by
      rintro rfl
      rw [held] at hd
      cases hd
      exact hn rfl
    have still : (s.withdraw kd d r).slots[k] = some c := by
      simp only [State.withdraw_slots]
      exact (State.slots_setSlot_other s _ other).trans held
    exact State.namesKept_trans (State.namesKept_withdraw hd r) (State.namesKept_record still r _ _ _)
  · exact State.namesKept_record held r _ _ _
  · exact State.namesKept_record held r _ _ _

theorem State.namesKept_takeHandOff (s : State) (h : HandOff) : s.namesKept (s.takeHandOff h) := by
  unfold State.takeHandOff
  split
  · exact s.namesKept_refl
  · rename_i found
    split
    · exact State.namesKept_handleReply (State.lookup_some found).1 _
    · exact s.namesKept_refl

/-! ### The channel's operations -/

theorem State.namesKept_returnUnsent (s : State) : s.namesKept s.returnUnsent := by
  have counter := congrArg State.serialCounter s.returnUnsent_frame.1
  refine ⟨counter, State.everyCallout_returnUnsent s.everyCallout_names fun k c i named => ?_⟩
  obtain ⟨d, held, same⟩ := named
  exact ⟨d, held, Callout.sameName_trans same (Callout.sameName_withProgress { c with queue := i :: c.queue } .queued)⟩

theorem State.namesKept_buildPlan (s : State) : s.namesKept s.buildPlan := by
  have counter := congrArg State.serialCounter s.buildPlan_frame.1
  exact ⟨counter, State.everyCallout_buildPlan s.everyCallout_names fun b k c held =>
    State.names_of_held held (turnOf b k c).sameName_left⟩

theorem State.namesKept_select (s : State) (site : Site) (why : SiteChangeCause) : s.namesKept (s.select site why) :=
  (s.select_effect site why).namesKept.after rfl rfl

theorem State.namesKept_keyingDecision (s : State) (pins : SitePins) : s.namesKept (s.keyingDecision pins) := by
  unfold State.keyingDecision
  dsimp only
  split
  · exact State.namesKept_of_eq rfl rfl
  · split
    · split
      · exact State.namesKept_trans (s.namesKept_select _ .failover) (State.namesKept_of_eq rfl rfl)
      · exact State.namesKept_of_eq rfl rfl
    · exact State.namesKept_trans s.namesKept_returnUnsent (State.namesKept_of_eq rfl rfl)

theorem State.namesKept_sampleSite (s : State) (pins : SitePins) : s.namesKept (s.sampleSite pins) := by
  unfold State.sampleSite
  split
  · exact s.namesKept_refl
  · exact State.namesKept.after (State.namesKept_select _ _ .pin) rfl rfl

theorem State.namesKept_changeChannel (s : State) (new : ChannelState) (why : ChannelCause) :
    s.namesKept (s.changeChannel new why) :=
  (s.changeChannel_effect new why).namesKept.after rfl rfl

theorem State.namesKept_openCycle (s : State) (lone : Bool) (pins : SitePins) : s.namesKept (s.openCycle lone pins) := by
  have opened : s.namesKept { s with channel := { s.channel with cycle := s.channel.cycle + 1, pos := .lead lone 0 } } :=
    State.namesKept_of_eq rfl rfl
  unfold State.openCycle
  dsimp only
  refine State.namesKept_trans ?_ (State.namesKept_keyingDecision _ pins)
  refine State.namesKept_trans ?_ (State.namesKept_sampleSite _ pins)
  exact State.namesKept_trans (State.namesKept_trans opened (State.namesKept_buildPlan _)) (State.namesKept_of_eq rfl rfl)

theorem State.namesKept_stopSlots (s : State) : s.namesKept s.stopSlots := by
  have counter := s.stopSlots_effect.1.namesKept.counter
  have callouts : s.stopSlots.everyCallout s.names :=
    State.everyCallout_stopSlots s.everyCallout_names fun _ _ ⟨d, held, same⟩ _ => ⟨d, held, same⟩
  generalize s.stopSlots = u at counter callouts
  exact ⟨counter, callouts⟩

theorem State.namesKept_stopChannel (s : State) (why : ChannelCause) : s.namesKept (s.stopChannel why) := by
  have rested : s.namesKept { s.unkey with channel := { s.unkey.channel with pos := .absent } } :=
    State.namesKept_of_eq rfl rfl
  exact State.namesKept_trans (State.namesKept_trans rested (State.namesKept_changeChannel _ .stopped why))
    (State.namesKept_stopSlots _)

theorem State.namesKept_loseClock (s : State) : s.namesKept s.loseClock := by
  unfold State.loseClock
  split
  · have rested : s.namesKept { s.returnUnsent.unkey with
        channel := { s.returnUnsent.unkey.channel with pos := .absent }, rx := .afterReset } :=
      State.namesKept_trans s.namesKept_returnUnsent (State.namesKept_of_eq rfl rfl)
    dsimp only
    split
    · exact State.namesKept_trans rested (State.namesKept_changeChannel _ .suspended .clockLost)
    · exact State.namesKept_trans rested (State.namesKept_stopChannel _ .clockLost)
  · exact s.namesKept_refl

theorem State.namesKept_loseReference (s : State) : s.namesKept s.loseReference :=
  (State.namesKept_loseClock _).after rfl rfl

theorem State.namesKept_matchCompletion (s : State) (i : TxItem) : s.namesKept (s.matchCompletion i) := by
  unfold State.matchCompletion
  split
  · exact s.namesKept_refl
  · rename_i found
    have held := (State.lookup_some found).1
    split
    · split
      · split
        · exact State.namesKept_setSlot held (s.sameName_advance _)
        · exact s.namesKept_refl
      · split
        · split
          · exact State.namesKept_free _ _ _ .stoodDown
          · exact State.namesKept_setSlot held ⟨rfl, rfl⟩
        · exact s.namesKept_refl
      · exact s.namesKept_refl
    · exact s.namesKept_refl

theorem State.namesKept_complete (s : State) (e : PlannedItem) : s.namesKept (s.complete e) :=
  (State.namesKept_matchCompletion _ e.item).after rfl rfl

theorem State.namesKept_endCell (s : State) (k : MemberIdx) : s.namesKept (s.endCell k) := by
  have settled : s.namesKept (s.settleCell k) := State.namesKept_of_frame (s.settleCell_frame k).1 rfl rfl
  have frame := endCell_frame (s := s) (k := k)
  have counter := congrArg State.serialCounter frame
  have slots := congrArg State.slots frame
  exact State.namesKept_trans settled (State.namesKept_of_eq counter slots)

theorem State.namesKept_tick (s : State) : s.namesKept { s with slots := s.slots.map (Option.map Callout.ticked) } := by
  refine ⟨rfl, fun k c held => ?_⟩
  have held : (s.slots.map (Option.map Callout.ticked))[k.val] = some c := held
  rw [Vector.getElem_map] at held
  obtain ⟨d, before, rfl⟩ := Option.map_eq_some_iff.1 held
  exact ⟨d, before, d.sameName_ticked⟩

end Sys2Proof.Machine
end

section
/-! PROOF. No two callouts share a tag or a reference: kept by every command (R33, R37). A Raise names a callout; every other command
leaves the names that it finds, or clears the table. -/

namespace Sys2Proof.Machine

open Sys2Proof

variable {s t : State} {p : Port} {perm : Permission} {body : State → Taken}

/-! ### Requests -/

theorem State.tagsDistinct_takeRequest (law : s.tagsDistinct) (kept : (body s).1.tagsDistinct) :
    (s.takeRequest p perm body).tagsDistinct :=
  State.takeRequest_cases law (fun _ => State.namesKept.tagsDistinct (State.namesKept_of_eq rfl rfl) law)
    (State.namesKept.tagsDistinct (State.namesKept_of_eq rfl rfl) kept)

/-- A request whose rule names no callout keeps the names (R165, R167). -/
theorem State.namesKept_takeRequest (kept : s.namesKept (body s).1) : s.namesKept (s.takeRequest p perm body) :=
  State.takeRequest_cases s.namesKept_refl (fun _ => State.namesKept_of_eq rfl rfl)
    (State.namesKept_trans kept (State.namesKept_of_eq rfl rfl))

/-- An allocation names one callout, with a number whose tag no other holds and a reference that no other has (R37, R38, R40). -/
theorem State.tagsDistinct_allocate (law : s.tagsDistinct) (p : Port) {k : SlotIdx} {c : Callout} (free : s.slots[k] = none)
    (number : c.number = s.newNumber) (nonzero : c.reference ≠ 0)
    (unshared : ∀ j : SlotIdx, ∀ d ∈ s.slots[j], d.reference ≠ c.reference) : (s.allocate p k c).tagsDistinct := by
  obtain ⟨counter, named, distinct⟩ := law
  obtain ⟨-, -, -, -, unused⟩ := State.newNumber_spec free
  have apart : ∀ j : SlotIdx, ∀ d ∈ s.slots[j], tagOf d.number ≠ tagOf c.number ∧ d.reference ≠ c.reference :=
    fun j d held => ⟨fun same => Bool.false_ne_true (unused.symm.trans (State.tagInUse_iff.2 ⟨j, d, held, number ▸ same⟩)),
      unshared j d held⟩
  have filled : (({ s with serialCounter := nextNumber c.number }.takeUpPlan c.plan).setSlot k (some c)).tagsDistinct := by
    have slot : ∀ (j : SlotIdx) (d : Callout),
        d ∈ (({ s with serialCounter := nextNumber c.number }.takeUpPlan c.plan).setSlot k (some c)).slots[j] →
          j = k ∧ d = c ∨ d ∈ s.slots[j] := fun j d held => by
      rw [State.slots_setSlot] at held
      split at held
      · rename_i here
        exact .inl ⟨here, (Option.mem_some_iff.1 held).symm⟩
      · exact .inr held
    refine ⟨nextNumber_ne_zero _, fun j d held => ?_, fun i j d held e held' shared => ?_⟩
    · rcases slot j d held with ⟨-, rfl⟩ | before
      · exact ⟨number ▸ State.newNumber_ne_zero counter, nonzero⟩
      · exact named j d before
    · rcases slot i d held with ⟨rfl, rfl⟩ | before <;> rcases slot j e held' with ⟨rfl, rfl⟩ | before'
      · rfl
      · exact absurd (shared.imp Eq.symm Eq.symm) (not_or.2 (apart j e before'))
      · exact absurd shared (not_or.2 (apart i d before))
      · exact distinct i j d before e before' shared
  have told := State.noticed_raiseNotice
    (({ s with serialCounter := nextNumber c.number }.takeUpPlan c.plan).setSlot k (some c)) (s.interested c) (raisedNotice c p k)
  refine (State.namesKept_trans told.namesKept (State.namesKept_startStep (c := c) ?_ ⟨rfl, rfl⟩ 0)).tagsDistinct filled
  exact State.slots_setSlot_self _ k (some c)

theorem raiseBody_tagsDistinct (law : s.tagsDistinct) (reference : Quad) (plan priority cls : Byte) (location : Three) :
    (raiseBody p reference plan priority cls location s).1.tagsDistinct := by
  unfold raiseBody
  split
  · exact law
  · split
    · rename_i found
      split
      · exact (State.namesKept_merge (State.findSlot_some found).1 p _).tagsDistinct law
      · exact law
    · rename_i unshared
      split
      · exact law
      · split
        · exact law
        · rename_i passed
          rw [not_or] at passed
          split
          · exact law
          · rename_i k free
            refine State.tagsDistinct_allocate law p (State.freeSlot_some free) rfl passed.1 fun j d held same => ?_
            have other := State.findSlot_none.1 unshared j d held
            exact absurd same (of_decide_eq_false other)

theorem State.namesKept_permitted {n : Half} {effect : SlotIdx → Callout → Taken}
    (kept : ∀ k c, s.slots[k] = some c → s.namesKept (effect k c).1) : s.namesKept (s.permitted p n effect).1 := by
  unfold State.permitted
  split
  · exact s.namesKept_refl
  · rename_i k c found
    split
    · exact kept k c (State.lookup_some found).1
    · exact s.namesKept_refl

theorem escalateBody_namesKept (p : Port) (number : Half) (plan : Byte) (s : State) :
    s.namesKept (escalateBody p number plan s).1 := by
  refine State.namesKept_permitted fun k c held => ?_
  split
  · split
    · split
      · exact State.namesKept_escalateTo held _
      · exact s.namesKept_refl
    · exact s.namesKept_refl
  · exact s.namesKept_refl

theorem cancelBody_namesKept (p : Port) (number : Half) (s : State) : s.namesKept (cancelBody p number s).1 := by
  refine State.namesKept_permitted fun k c held => ?_
  split
  · exact State.namesKept_cancelCallout held
  · exact s.namesKept_refl

theorem markDepartedBody_namesKept (number : Half) (s : State) : s.namesKept (markDepartedBody number s).1 := by
  unfold markDepartedBody
  split
  · exact s.namesKept_refl
  · rename_i found
    split
    · exact State.namesKept_depart (State.lookup_some found).1
    · exact s.namesKept_refl

theorem releaseBody_namesKept (p : Port) (number : Half) (s : State) : s.namesKept (releaseBody p number s).1 := by
  refine State.namesKept_permitted fun k c _ => ?_
  split
  · exact s.namesKept_releaseCallout k c
  · exact s.namesKept_refl

theorem recordReplyBody_namesKept (p : Port) (member : Byte) (number : Half) (answer eta : Byte) (s : State) :
    s.namesKept (recordReplyBody p member number answer eta s).1 := by
  unfold recordReplyBody
  split
  · split
    · split
      · exact s.namesKept_refl
      · rename_i found
        split
        · exact s.namesKept_refl
        · split
          · exact s.namesKept_refl
          · exact State.namesKept_handleReply (State.lookup_some found).1 _
    · exact s.namesKept_refl
  · exact s.namesKept_refl

theorem markArrivedBody_namesKept (p : Port) (member : Byte) (number : Half) (s : State) :
    s.namesKept (markArrivedBody p member number s).1 := by
  unfold markArrivedBody
  split
  · exact s.namesKept_refl
  · split
    · split
      · exact s.namesKept_refl
      · rename_i found
        split
        · exact s.namesKept_refl
        · split
          · exact s.namesKept_refl
          · exact State.namesKept_handleReply (State.lookup_some found).1 _
    · exact s.namesKept_refl

theorem setAvailabilityBody_namesKept (p : Port) (member availability : Byte) (s : State) :
    s.namesKept (setAvailabilityBody p member availability s).1 := by
  unfold setAvailabilityBody
  split
  · split <;> exact State.namesKept_of_eq rfl rfl
  · exact s.namesKept_refl

theorem State.namesKept_storeMember (s : State) (m : MemberIdx) (x : Member) : s.namesKept (s.storeMember m x) := by
  unfold State.storeMember
  split <;> exact State.namesKept_of_eq rfl rfl

theorem writeMemberBody_namesKept (p : Port) (member inUse kind : Byte) (address : Three) (toneGroup quals : Byte) (groups : Half)
    (eta availability : Byte) (s : State) :
    s.namesKept (writeMemberBody p member inUse kind address toneGroup quals groups eta availability s).1 := by
  unfold writeMemberBody
  split
  · exact s.namesKept_refl
  · split
    · exact s.namesKept_refl
    · split
      · exact s.namesKept_storeMember _ _
      · split
        · exact s.namesKept_refl
        · split
          · split
            · exact s.namesKept_refl
            · exact s.namesKept_storeMember _ _
          · exact s.namesKept_refl

theorem writePlanStepBody_namesKept (plan step kind : Byte) (groups : Half) (count toneGroup condition : Byte) (hold : Half)
    (repeats rate : Byte) (s : State) :
    s.namesKept (writePlanStepBody plan step kind groups count toneGroup condition hold repeats rate s).1 := by
  unfold writePlanStepBody
  split
  · split
    · exact s.namesKept_refl
    · split
      · exact s.namesKept_refl
      · split <;> exact State.namesKept_of_eq rfl rfl
  · exact s.namesKept_refl

theorem writeTemplateBody_namesKept (plan officer driver wearer total : Byte) (target : Half) (s : State) :
    s.namesKept (writeTemplateBody plan officer driver wearer total target s).1 := by
  unfold writeTemplateBody
  split
  · exact s.namesKept_refl
  · split
    · exact s.namesKept_refl
    · split <;> exact State.namesKept_of_eq rfl rfl

theorem State.namesKept_readNamed (s : State) (number : Half) (fields : SlotIdx → Callout → List Byte) :
    s.namesKept (s.readNamed number fields).1 := by
  unfold State.readNamed
  split <;> exact s.namesKept_refl

theorem setChannelParametersBody_namesKept (station limit threshold mode level : Byte) (s : State) :
    s.namesKept (setChannelParametersBody station limit threshold mode level s).1 := by
  unfold setChannelParametersBody
  split
  · exact s.namesKept_refl
  · split
    · exact s.namesKept_refl
    · split <;> exact State.namesKept_of_eq rfl rfl

theorem startChannelBody_namesKept (pins : SitePins) (s : State) : s.namesKept (startChannelBody pins s).1 := by
  unfold startChannelBody
  split
  · exact s.namesKept_refl
  · split
    · exact State.namesKept_trans (s.namesKept_changeChannel .running .start) (State.namesKept_openCycle _ true pins)
    · exact s.namesKept_changeChannel .suspended .start

theorem stopChannelBody_namesKept (s : State) : s.namesKept (stopChannelBody s).1 := by
  unfold stopChannelBody done
  split
  · exact s.namesKept_changeChannel .stopping .stop
  · dsimp only
    exact s.namesKept_stopChannel .stop
  · exact s.namesKept_refl

theorem selectSiteBody_namesKept (site : Byte) (s : State) : s.namesKept (selectSiteBody site s).1 := by
  unfold selectSiteBody
  split
  · exact s.namesKept_refl
  · exact s.namesKept_select _ .request

/-! ### Events -/

theorem execCalloutReply_namesKept (h : execCalloutReply s = .next t) : s.namesKept t := by
  cases h
  split
  · exact s.namesKept_refl
  · split
    · exact s.namesKept_refl
    · exact (State.namesKept_takeHandOff _ _).after rfl rfl

theorem execHoldExpiry_namesKept (h : execHoldExpiry s = .next t) : s.namesKept t := by
  cases h
  split
  · exact s.namesKept_refl
  · split
    · rename_i found
      split
      · exact State.namesKept_expireHold (State.findSlot_some found).1 _
      · exact s.namesKept_refl
    · exact s.namesKept_refl

theorem execPlanPoint_namesKept (pins : SitePins) (h : execPlanPoint pins s = .next t) : s.namesKept t := by
  cases h
  split
  · split
    · exact s.namesKept_openCycle false pins
    · exact s.namesKept_stopChannel .endOfCycle
  · exact s.namesKept_refl

theorem execToneCallStart_namesKept (h : execToneCallStart s = .next t) : s.namesKept t := by
  cases h
  split
  · split
    · unfold State.startTone
      split <;> exact State.namesKept_of_eq rfl rfl
    · exact s.namesKept_refl
  · exact s.namesKept_refl

theorem execFrameAssembly_namesKept (h : execFrameAssembly s = .next t) : s.namesKept t := by
  cases h
  split
  · split <;> exact State.namesKept_of_eq rfl rfl
  · exact s.namesKept_refl

theorem execCompletion_namesKept (h : execCompletion s = .next t) : s.namesKept t := by
  cases h
  split
  · split
    · exact s.namesKept_complete _
    · exact s.namesKept_refl
  · exact s.namesKept_refl

theorem execReadyLoss_namesKept (site : Site) (h : execReadyLoss site s = .next t) : s.namesKept t := by
  cases h
  split
  · have returned := State.namesKept_returnUnsent { s with inputs := s.inputs.unready site }
    exact State.namesKept_trans (returned.after rfl rfl) (State.namesKept_of_eq rfl rfl)
  · exact s.namesKept_refl

theorem execCellEnd_namesKept (h : execCellEnd s = .next t) : s.namesKept t := by
  cases h
  split
  · split
    · split
      · exact s.namesKept_refl
      · exact s.namesKept_endCell _
    · exact s.namesKept_refl
  · exact s.namesKept_refl

theorem execRestoreGap_namesKept (h : execRestoreGap s = .next t) : s.namesKept t := by
  cases h
  split
  · exact s.namesKept_refl
  · split
    · exact s.namesKept_loseReference
    · split <;> exact State.namesKept_of_eq rfl rfl

theorem execRestored_namesKept (pins : SitePins) (h : execRestored pins s = .next t) : s.namesKept t := by
  cases h
  split
  · have restored : s.namesKept ({ s with
          sup := { s.sup with clock := .reference, restore := .idle }
          tx := { s.tx with restoreWord := true } }.raiseNotice .every
        (clockRestoredNotice s.sup.fallbackTicks s.channel.cycle)) := State.namesKept_of_eq rfl rfl
    dsimp only
    unfold State.resumeChannel
    split
    · have running := State.namesKept_trans restored (State.namesKept_changeChannel _ .running .clockRestored)
      exact State.namesKept_trans running (State.namesKept_openCycle _ true pins)
    · exact restored
  · exact s.namesKept_refl

/-! ### Every command -/

theorem exec_tagsDistinct (c : Instr) (law : s.tagsDistinct) (h : exec c s = .next t) : t.tagsDistinct := by
  have request : ∀ {p perm body}, s.namesKept (body s).1 → (s.takeRequest p perm body).tagsDistinct :=
    fun kept => (State.namesKept_takeRequest kept).tagsDistinct law
  have same : ∀ {u : State}, u.serialCounter = s.serialCounter → u.slots = s.slots → u.tagsDistinct :=
    fun counter slots => (State.namesKept_of_eq counter slots).tagsDistinct law
  cases c with
  | raise => cases h; exact State.tagsDistinct_takeRequest law (raiseBody_tagsDistinct law _ _ _ _ _)
  | cancel => cases h; exact request (cancelBody_namesKept _ _ s)
  | escalate => cases h; exact request (escalateBody_namesKept _ _ _ s)
  | markDeparted => cases h; exact request (markDepartedBody_namesKept _ s)
  | release => cases h; exact request (releaseBody_namesKept _ _ s)
  | recordReply => cases h; exact request (recordReplyBody_namesKept _ _ _ _ _ s)
  | markArrived => cases h; exact request (markArrivedBody_namesKept _ _ _ s)
  | calloutReply => exact (execCalloutReply_namesKept h).tagsDistinct law
  | setAvailability => cases h; exact request (setAvailabilityBody_namesKept _ _ _ s)
  | writeMember => cases h; exact request (writeMemberBody_namesKept _ _ _ _ _ _ _ _ _ _ s)
  | readMember =>
    cases h; refine request ?_
    unfold readMemberBody; split <;> exact s.namesKept_refl
  | writePlanStep => cases h; exact request (writePlanStepBody_namesKept _ _ _ _ _ _ _ _ _ _ s)
  | writeTemplate => cases h; exact request (writeTemplateBody_namesKept _ _ _ _ _ _ s)
  | readPlan =>
    cases h; refine request ?_
    unfold readPlanBody; split <;> exact s.namesKept_refl
  | writeToneFrequency =>
    cases h; refine request ?_
    unfold writeToneFrequencyBody; split <;> exact State.namesKept_of_eq rfl rfl
  | writeTonePair =>
    cases h; refine request ?_
    unfold writeTonePairBody; split <;> exact State.namesKept_of_eq rfl rfl
  | readToneTables | listCallouts | readStatus => cases h; exact request s.namesKept_refl
  | readCallout | readResponders | readCrew => cases h; exact request (s.namesKept_readNamed _ _)
  | readNotice =>
    cases h; refine request ?_
    unfold readNoticeBody; dsimp only; split <;> exact State.namesKept_of_eq rfl rfl
  | setChannelParameters => cases h; exact request (setChannelParametersBody_namesKept _ _ _ _ _ s)
  | startChannel => cases h; exact request (startChannelBody_namesKept _ s)
  | stopChannel => cases h; exact request (stopChannelBody_namesKept s)
  | selectSite => cases h; exact request (selectSiteBody_namesKept _ s)
  | unknownRequest | frameOpen | frameClose | keyedPeriodEnd | sampleTime => cases h; split <;> exact same rfl rfl
  | reset => cases h; exact same rfl rfl
  | oneSecondTick =>
    cases h; split
    · exact law
    · have ticked := s.namesKept_tick.tagsDistinct law
      exact ticked
  | holdExpiry => exact (execHoldExpiry_namesKept h).tagsDistinct law
  | planPoint pins => exact (execPlanPoint_namesKept pins h).tagsDistinct law
  | frameAssembly => exact (execFrameAssembly_namesKept h).tagsDistinct law
  | toneCallStart => exact (execToneCallStart_namesKept h).tagsDistinct law
  | completion => exact (execCompletion_namesKept h).tagsDistinct law
  | readyLoss site => exact (execReadyLoss_namesKept site h).tagsDistinct law
  | cellEnd => exact (execCellEnd_namesKept h).tagsDistinct law
  | referenceLost =>
    cases h; split
    · exact s.namesKept_loseReference.tagsDistinct law
    · exact law
  | restoreGap => exact (execRestoreGap_namesKept h).tagsDistinct law
  | restored pins => exact (execRestored_namesKept pins h).tagsDistinct law
  | resetEnd | selfTestEnd =>
    cases h; split
    · exact State.tagsDistinct_of_cleared rfl fun _ => Vector.getElem_replicate _
    · exact law
  | symbolTime pins =>
    cases h; split
    · exact (State.namesKept_of_frame (s.advanceSymbol_frame pins).1 rfl rfl).tagsDistinct law
    · exact law

/-- Settles O25: a step keeps the names of the callouts, or clears them, or names one callout, with a number of a free tag and a new
reference. -/
theorem tagsAndReferencesStayDistinct : Obligations.TagsAndReferencesStayDistinct := by
  intro s t law h
  unfold step at h
  split at h
  · cases h
    have kept : s.namesKept s.clockPeriod := State.namesKept_of_frame s.clockPeriod_frame.1 rfl rfl
    exact kept.tagsDistinct law
  · rename_i c rest _
    exact exec_tagsDistinct (s := { s with pending := rest }) c law h

end Sys2Proof.Machine
end

section
/-! PROOF. The actions of a step: what they enqueue and record, and whom a shortfall page selects (R41 to R45). -/

namespace Sys2Proof.Machine

open Sys2Proof

variable {s : State} {c : Callout}

/-! ### The selection of a shortfall page (R45) -/

/-- One member stands before another in a shortfall selection: by default ETA, then by index (R8, R45). -/
def State.standsBefore (s : State) (x y : MemberIdx) : Prop :=
  (s.member x).defaultEta < (s.member y).defaultEta ∨ ((s.member x).defaultEta = (s.member y).defaultEta ∧ x < y)

theorem State.pagedBefore_iff {x y : MemberIdx} : s.pagedBefore x y = true ↔ s.standsBefore x y := by
  simp [State.pagedBefore, State.standsBefore]

theorem State.standsBefore_trans {x y z : MemberIdx} (h : s.standsBefore x y) (g : s.standsBefore y z) : s.standsBefore x z := by
  simp only [State.standsBefore, Fin.lt_def] at *
  omega

theorem State.standsBefore_or_of_not {x y : MemberIdx} (h : ¬s.standsBefore y x) : s.standsBefore x y ∨ x = y := by
  simp only [State.standsBefore, Fin.lt_def, Fin.ext_iff] at *
  omega

/-- A member is useful for a specific role that is missing, or for the Crew seats alone when no other is missing (R45). -/
theorem usefulTo_iff {missing : RoleCounts} {q : Quals} : usefulTo missing q = true ↔
    (0 < missing.officer ∧ q.officer = true ∨ 0 < missing.driver ∧ q.driver = true ∨ 0 < missing.wearer ∧ q.wearer = true) ∨
      (missing.officer = 0 ∧ missing.driver = 0 ∧ missing.wearer = 0 ∧ 0 < missing.crew) := by
  unfold usefulTo
  split
  · rename_i none
    obtain ⟨officer, driver, wearer⟩ := none
    simp [officer, driver, wearer]
  · rename_i some
    simp only [Bool.or_eq_true, Bool.and_eq_true, decide_eq_true_eq]
    rw [or_assoc]
    exact ⟨.inl, fun h => h.resolve_right fun ⟨officer, driver, wearer, _⟩ => some ⟨officer, driver, wearer⟩⟩

theorem Member.isDigital_iff {x : Member} : x.isDigital = true ↔ x.inUse = true ∧ ∃ a g, x.pager = .digital a g := by
  unfold Member.isDigital
  split
  · rename_i a g digital
    exact ⟨fun used => ⟨used, a, g, digital⟩, fun h => h.1⟩
  · rename_i other
    exact ⟨fun h => (by cases h), fun ⟨_, a, g, digital⟩ => absurd digital (other a g)⟩

/-- The candidates of a shortfall page in the order in which it takes them (R45). -/
def State.pageable (s : State) (c : Callout) : List MemberIdx := sortBy s.pagedBefore (allMembers.filter (s.eligible c))

theorem State.mem_pageable {m : MemberIdx} : m ∈ s.pageable c ↔ s.eligible c m = true := by
  simp [State.pageable, allMembers]

theorem State.pageable_ordered (s : State) (c : Callout) : (s.pageable c).Pairwise s.standsBefore := by
  have once : (s.pageable c).Nodup := (sortBy_perm _ _).nodup_iff.2 ((List.nodup_finRange 96).filter _)
  have weak : (s.pageable c).Pairwise fun x y => s.standsBefore x y ∨ x = y := by
    refine sortBy_pairwise _ _ _ (fun x y h => .inl (State.pagedBefore_iff.1 h)) (fun x y h => ?_) fun x y z h g => ?_
    · refine State.standsBefore_or_of_not fun before => ?_
      rw [State.pagedBefore_iff.2 before] at h
      cases h
    · rcases h with h | rfl
      · exact .inl (g.elim (State.standsBefore_trans h) fun same => same ▸ h)
      · exact g
  exact (weak.and once).imp fun h => h.1.resolve_right h.2

/-- Settles O28: the head of the eligible members in order. -/
theorem shortfallPageSelectsInOrder : Obligations.ShortfallPageSelectsInOrder := by
  intro s c n before missing useful eligible
  have fits : ∀ m, s.eligible c m = true ↔ eligible m := fun m => by
    simp only [State.eligible, Bool.and_eq_true, Member.isDigital_iff, decide_eq_true_eq, usefulTo_iff, Bool.not_eq_true',
      List.any_eq_false, and_assoc]
    rfl
  have selected : s.shortfall c n = (s.pageable c).take n := rfl
  have ordered := s.pageable_ordered c
  rw [selected]
  refine ⟨ordered.sublist (List.take_sublist _ _), fun m hm => (fits m).1 (State.mem_pageable.1 (List.mem_of_mem_take hm)),
    List.length_take_le _ _, fun m fit passed => ?_⟩
  have waits : m ∈ (s.pageable c).drop n := by
    have here := State.mem_pageable.2 ((fits m).2 fit)
    rw [← List.take_append_drop n (s.pageable c)] at here
    exact (List.mem_append.1 here).resolve_left passed
  rw [← List.take_append_drop n (s.pageable c), List.pairwise_append] at ordered
  refine ⟨?_, fun x taken => ordered.2.2 x taken m waits⟩
  have left := List.length_pos_of_mem waits
  rw [List.length_drop] at left
  rw [List.length_take]
  omega

/-! ### The actions (R42 to R45) -/

theorem mem_groupsOf {groups : BitVec 12} {g : GroupIdx} : g ∈ groupsOf groups ↔ groups.getLsbD g = true := by
  simp [groupsOf]

theorem groupsOf_ascending (groups : BitVec 12) : (groupsOf groups).Pairwise (· < ·) :=
  (List.pairwise_lt_finRange 12).filter _

/-- A Group page of no empty set has a group to page. -/
theorem groupsOf_ne_nil {groups : BitVec 12} (some : groups ≠ 0) : groupsOf groups ≠ [] := by
  intro none
  refine some (BitVec.eq_of_getLsbD_eq fun i hi => ?_)
  have unset : (⟨i, hi⟩ : GroupIdx) ∉ groupsOf groups := by rw [none]; exact List.not_mem_nil
  rw [mem_groupsOf, Bool.not_eq_true] at unset
  simpa using unset

/-- Settles O27, action by action. -/
theorem stepActionsEnqueueTheirItems : Obligations.StepActionsEnqueueTheirItems := by
  intro s k c progress repeats hold item holding
  refine ⟨fun groups r rate some => ?_, fun g => rfl, ?_, fun n r rate => ?_⟩
  · refine ⟨groupsOf groups, groupsOf_ascending groups, fun g => mem_groupsOf, ?_⟩
    have pages : ((groupsOf groups).map fun g => ItemKind.groupAlert g rate).isEmpty = false := by
      simpa using groupsOf_ne_nil some
    simp only [State.takeAction, State.act, State.raiseAid, Option.getD_some, pages, Callout.enqueue, Callout.withRun,
      List.map_map, Bool.false_eq_true, if_false]
    rfl
  · have asked : (c.enqueue []).withRun ⟨c.heldFor hold, repeats, none⟩ =
        { c with lifecycle := .active ⟨holding, repeats, none⟩ } := by
      simp only [Callout.enqueue, Callout.withRun, List.map_nil, List.append_nil]
      rfl
    exact congrArg (fun d => State.setSlot _ k (some d)) asked
  · obtain ⟨once, kept, members⟩ := foldl_insertNew (s.shortfall c n) c.pagedMembers
    refine ⟨(s.shortfall c n).foldl (fun l m => insertNew m l) c.pagedMembers, fun m => (members m).trans or_comm, once, kept, ?_⟩
    simp only [State.takeAction, State.act, State.raiseAid, Option.getD_some, Callout.enqueue, Callout.withRun, List.map_map,
      List.isEmpty_iff, List.map_eq_nil_iff]
    rfl

end Sys2Proof.Machine
end

section
/-! PROOF. The routes of notices (R59, R173, R174, R176, R177). -/

namespace Sys2Proof.Machine

open Sys2Proof

variable {s : State} {p : Port}

theorem State.stations_has : s.stations.has p = true ↔ (s.port p).cls = .station := by
  cases p <;> exact decide_eq_true_iff

theorem PortSet.has_union {t u : PortSet} : (t.union u).has p = true ↔ t.has p = true ∨ u.has p = true := by
  cases p <;> exact Bool.or_eq_true_iff

theorem State.attention_iff : s.attention p = true ↔
    s.sup.held = false ∧ ((s.port p).queue ≠ [] ∨ (s.port p).overflow = true) := by
  simp [State.attention]

/-- Out of the self-test, a queue with room takes the notice (R174). -/
theorem PortState.offered_room {x : PortState} {n : Notice} (room : x.queue.length < 32) :
    x.offered false n = { x with queue := x.queue ++ [n] } := by
  simp [PortState.offered, Config.queueCapacity, room]

/-- In the self-test, or with 32 notices waiting, the notice is dropped and the mark set (R174, R177). -/
theorem PortState.offered_dropped {x : PortState} {testing : Bool} {n : Notice} (full : testing = true ∨ 32 ≤ x.queue.length) :
    x.offered testing n = { x with overflow := true } := by
  unfold PortState.offered
  split
  · rfl
  · rename_i ended
    exact if_neg (Nat.not_lt.2 (full.resolve_left ended))

/-- A notice offered makes the attention line active, taken or dropped (R176). -/
theorem PortState.offered_attends (x : PortState) (testing : Bool) (n : Notice) :
    (x.offered testing n).queue ≠ [] ∨ (x.offered testing n).overflow = true := by
  by_cases full : testing = true ∨ 32 ≤ x.queue.length
  · rw [PortState.offered_dropped full]
    exact .inr rfl
  · rw [not_or, Bool.not_eq_true, Nat.not_le] at full
    obtain ⟨rfl, room⟩ := full
    rw [PortState.offered_room room]
    exact .inl (List.append_ne_nil_of_right_ne_nil _ (List.cons_ne_nil _ _))

/-- Settles O12, port by port. -/
theorem noticesReachExactlyTheirRoute : Obligations.NoticesReachExactlyTheirRoute := by
  intro s route n p
  have offered : route.has p = true → (s.raiseNotice route n).port p = (s.port p).offered s.testing n := fun on => by
    rw [State.port_raiseNotice, if_pos on]
  refine ⟨rfl, fun off => ?_, fun on ended room => ?_, fun on full => ?_, fun on running => ?_, State.attention_iff,
    ⟨rfl, rfl, rfl⟩, State.stations_has, fun c => ?_⟩
  · rw [State.port_raiseNotice, off, if_neg Bool.false_ne_true]
  · rw [offered on, ended, PortState.offered_room room]
  · rw [offered on, PortState.offered_dropped full]
  · rw [State.attention_iff, offered on]
    exact ⟨running, PortState.offered_attends _ _ _⟩
  · rw [State.interested, PortSet.has_union, State.stations_has]

end Sys2Proof.Machine
end

section
/-! PROOF. The one-second tick (R48, R183, R184). -/

namespace Sys2Proof.Machine

open Sys2Proof

theorem Callout.ticked_eq (c : Callout) : c.ticked = { c with
    elapsed := min 4095 (c.elapsed + 1)
    lifecycle := match c.lifecycle with
      | .active ⟨.holding deadline due, repeats, rate⟩ =>
        .active ⟨.holding deadline (due || deadline ≤ min 4095 (c.elapsed + 1)), repeats, rate⟩
      | l => l } := by
  unfold Callout.ticked
  rcases c.lifecycle with ⟨⟨_ | _ | _ | _, _, _⟩⟩ | _ | _ <;> rfl

theorem exec_oneSecondTick {s : State} (released : s.sup.held = false) (due : s.tickDue = true) :
    exec .oneSecondTick s = .next { s with
      slots := s.slots.map (Option.map Callout.ticked)
      sup := { s.sup with
        tickPhase := 0
        fallbackTicks := if s.sup.clock = .internal then min 65535 (s.sup.fallbackTicks + 1) else s.sup.fallbackTicks } } := by
  show execOneSecondTick s = _
  simp only [execOneSecondTick, released, due, Bool.not_true, Bool.or_self, Bool.false_eq_true, if_false]
  rfl

/-- Settles O33: every slot ticked, and the clocks. -/
theorem tickAdvancesElapsedTimes : Obligations.TickAdvancesElapsedTimes := by
  intro s released second
  refine ⟨_, exec_oneSecondTick released (decide_eq_true second), fun k free => ?_, fun k c held => ?_, rfl, rfl⟩
  all_goals
    have ticked : ∀ x, s.slots[k] = x → (s.slots.map (Option.map Callout.ticked))[k] = x.map Callout.ticked :=
      fun x hx => hx ▸ Vector.getElem_map ..
  · exact ticked none free
  · exact (ticked (some c) held).trans (congrArg some c.ticked_eq)

end Sys2Proof.Machine
end

section
/-! PROOF. Cancel, Mark departed and Release (R53, R55, R56). -/

namespace Sys2Proof.Machine

open Sys2Proof

variable {s : State} {p : Port} {k : SlotIdx} {c : Callout}

theorem ChannelState.willSend_iff {x : ChannelState} : x.willSend = true ↔ x = .running ∨ x = .suspended := by
  cases x <;> simp [ChannelState.willSend]

theorem Engagement.isTo_iff {n : Half} {e : Engagement} : e.isTo n = true ↔ e = .responding n ∨ e = .assigned n := by
  cases e <;> simp [Engagement.isTo, Engagement.callout]

/-! ### The requests taken -/

section Named

variable (taken : s.takes p) (named : s.lookup c.number = some (k, c))
include taken named

theorem exec_cancel (allowed : (s.port p).cls = .station ∨ c.origins.has p = true) (active : c.isActive = true) :
    exec (.cancel p c.number) s = .next ((s.cancelCallout k c).respond p [0]) := by
  show Host.Outcome.next (s.takeRequest p .any (cancelBody p c.number)) = _
  rw [State.takeRequest_any taken, cancelBody, State.permitted_allowed named allowed, if_pos active]
  rfl

theorem exec_markDeparted (station : (s.port p).cls = .station) (active : c.isActive = true) :
    exec (.markDeparted p c.number) s = .next ((s.depart k c).respond p [0]) := by
  show Host.Outcome.next (s.takeRequest p .stationOnly (markDepartedBody c.number)) = _
  rw [State.takeRequest_station taken station]
  simp only [markDepartedBody, named, active, if_true]
  rfl

theorem exec_release (allowed : (s.port p).cls = .station ∨ c.origins.has p = true) (departed : c.lifecycle = .departed) :
    exec (.release p c.number) s = .next ((s.releaseCallout k c).respond p [0]) := by
  show Host.Outcome.next (s.takeRequest p .any (releaseBody p c.number)) = _
  rw [State.takeRequest_any taken, releaseBody, State.permitted_allowed named allowed, departed]
  rfl

end Named

/-! ### Their effects -/

/-- With the channel Running or Suspended a cancelled callout stands down (R53). -/
theorem State.cancelCallout_standsDown (sends : s.channel.state = .running ∨ s.channel.state = .suspended) :
    s.cancelCallout k c = ((s.disengage (Engagement.isTo c.number)).leavePlan c.plan).setSlot k (some { c with
      serial := c.serial + 1
      queue := [⟨.standDown, c.number, c.serial + 1⟩, ⟨.standDown, c.number, c.serial + 1⟩]
      lifecycle := .standingDown 0 }) :=
  if_pos (ChannelState.willSend_iff.2 sends)

/-- Otherwise its slot is freed (R53). -/
theorem State.cancelCallout_frees (silent : s.channel.state = .stopped ∨ s.channel.state = .stopping) :
    s.cancelCallout k c = ((s.disengage (Engagement.isTo c.number)).leavePlan c.plan).free k c .cancelled := by
  refine if_neg fun sends => ?_
  rcases silent with state | state <;> rw [state] at sends <;> cases sends

theorem ChannelState.sends_or_silent (x : ChannelState) : (x = .running ∨ x = .suspended) ∨ x = .stopped ∨ x = .stopping := by
  cases x <;> simp

theorem ChannelState.not_silent {x : ChannelState} (sends : x = .running ∨ x = .suspended) : ¬(x = .stopped ∨ x = .stopping) := by
  rcases sends with rfl | rfl <;> simp

/-- The members of a callout that is cancelled are freed, whether Responding or Assigned (R53). -/
theorem State.member_disengage_isTo (n : Half) (m : MemberIdx) : (s.disengage (Engagement.isTo n)).member m =
    if (s.member m).engagement = .responding n ∨ (s.member m).engagement = .assigned n then
      { s.member m with engagement := .free }
    else s.member m := by
  rw [State.member_disengage]
  exact if_congr Engagement.isTo_iff rfl rfl

/-- Members of one engagement freed. -/
theorem State.member_disengage_eq (x : Engagement) (m : MemberIdx) : (s.disengage fun e => e = x).member m =
    if (s.member m).engagement = x then { s.member m with engagement := .free } else s.member m := by
  rw [State.member_disengage]
  exact if_congr decide_eq_true_iff rfl rfl

/-- Settles O30, with the channel sending and silent. -/
theorem cancelStandsDownOrFrees : Obligations.CancelStandsDownOrFrees := by
  intro s p k c taken named allowed active
  refine ⟨_, exec_cancel taken named allowed active, ?_⟩
  rcases s.channel.state.sends_or_silent with sends | silent
  · rw [State.cancelCallout_standsDown sends]
    exact ⟨State.member_disengage_isTo c.number, rfl, fun _ => ⟨rfl, rfl⟩,
      fun silent => absurd silent (ChannelState.not_silent sends), rfl⟩
  · rw [State.cancelCallout_frees silent]
    exact ⟨State.member_disengage_isTo c.number, rfl, fun sends => absurd silent (ChannelState.not_silent sends),
      fun _ => ⟨rfl, rfl⟩, rfl⟩

/-- The slot that a departure leaves: the crew frozen, and one Closing to send while the channel sends (R55). -/
theorem State.depart_slots (s : State) (k : SlotIdx) (c : Callout) : (s.depart k c).slots = s.slots.set k (some { c with
    serial := c.serial + 1
    queue := if s.channel.state = .running ∨ s.channel.state = .suspended then [⟨.closing, c.number, c.serial + 1⟩] else []
    lifecycle := .departed }) := by
  by_cases sends : s.channel.state.willSend = true
  · simp only [ChannelState.willSend_iff.1 sends, if_true]
    simp only [State.depart, sends, if_true]
    rfl
  · rw [if_neg (mt ChannelState.willSend_iff.2 sends)]
    simp only [State.depart, sends]
    rfl

/-- Settles O31. -/
theorem departureFreezesAndReleaseFrees : Obligations.DepartureFreezesAndReleaseFrees := by
  intro s p k c taken named
  refine ⟨fun station active => ?_, fun allowed departed => ?_⟩
  · exact ⟨_, exec_markDeparted taken named station active, State.member_disengage_eq _, rfl, s.depart_slots k c, rfl, rfl⟩
  · exact ⟨_, exec_release taken named allowed departed, State.member_disengage_eq _, rfl, rfl, rfl⟩

end Sys2Proof.Machine
end

section
/-! PROOF. Raise: its tests in their order, the merge, and the new callout (R37 to R40). -/

namespace Sys2Proof.Machine

open Sys2Proof

variable {s : State} {p : Port} {reference : Quad} {plan priority cls : Byte} {location : Three} {k : SlotIdx} {c : Callout}

theorem exec_raise (taken : s.takes p) (working : s.faultMode = false) :
    exec (.raise p reference plan priority cls location) s =
      .next ((raiseBody p reference plan priority cls location s).1.respond p (raiseBody p reference plan priority cls location s).2) :=
  congrArg Host.Outcome.next (State.takeRequest_taken taken (fun station => by cases station) fun _ => working)

/-! ### The tests (R38) -/

theorem State.findReference_none (unused : ∀ j : SlotIdx, ∀ d ∈ s.slots[j], d.reference ≠ reference) :
    s.findSlot (fun c => c.reference = reference) = none :=
  State.findSlot_none.2 fun j d held => decide_eq_false (unused j d held)

theorem raiseBody_wide (wide : 7 < priority.toNat ∨ 262143 < location.toNat) :
    raiseBody p reference plan priority cls location s = refuse s .range := if_pos wide

section Narrow

variable (narrow : ¬(7 < priority.toNat ∨ 262143 < location.toNat))
include narrow

/-- The reference of a callout: a merge while it is Active, and State otherwise (R39). -/
theorem raiseBody_known (held : s.slots[k] = some c) (same : c.reference = reference)
    (lowest : ∀ j : SlotIdx, j < k → ∀ d ∈ s.slots[j], d.reference ≠ reference) :
    raiseBody p reference plan priority cls location s =
      if c.isActive then (s.merge p k c (priority.setWidth 3), Result.merged.code :: halfBytes c.number) else refuse s .state := by
  have found : s.findSlot (fun c => c.reference = reference) = some (k, c) :=
    State.findSlot_eq held (decide_eq_true same) fun j hj d hd => decide_eq_false (lowest j hj d hd)
  rw [raiseBody, if_neg narrow]
  simp only [found]

variable (unused : ∀ j : SlotIdx, ∀ d ∈ s.slots[j], d.reference ≠ reference)
include unused

theorem raiseBody_unfit
    (unfit : reference = 0 ∨ 16 ≤ plan.toNat ∨ ∃ i : PlanIdx, plan = byteOf i ∧ s.plans[i].runnable = false) :
    raiseBody p reference plan priority cls location s = refuse s .range := by
  rw [raiseBody, if_neg narrow]
  simp only [State.findReference_none unused]
  cases index : readIndex 16 plan with
  | none => rfl
  | some i =>
    refine if_pos (unfit.imp_right fun h => ?_)
    rcases h with out | ⟨j, rfl, idle⟩
    · rw [readIndex_none out] at index
      cases index
    · rw [readIndex_plan] at index
      cases index
      exact idle

/-- A reference and a plan that pass: a Free slot filled, or Full (R38). -/
theorem raiseBody_fit {i : PlanIdx} (nonzero : reference ≠ 0) (runnable : s.plans[i].runnable = true) :
    raiseBody p reference (byteOf i) priority cls location s = match s.freeSlot with
      | none => refuse s .full
      | some k =>
        done (s.allocate p k (s.newCallout p reference i (priority.setWidth 3) cls (location.setWidth 18)))
          (halfBytes s.newNumber) := by
  have fit : ¬(reference = 0 ∨ s.plans[i].runnable = false) :=
    fun unfit => unfit.elim nonzero fun idle => Bool.false_ne_true (idle.symm.trans runnable)
  rw [raiseBody, if_neg narrow]
  simp only [State.findReference_none unused, readIndex_plan, if_neg fit]
  rfl

end Narrow

/-! ### Merging (R39) -/

theorem toNat_priority (low : priority.toNat ≤ 7) : (priority.setWidth 3).toNat = priority.toNat := by
  rw [BitVec.toNat_setWidth]
  exact Nat.mod_eq_of_lt (Nat.lt_succ_of_le low)

/-- A merge keeps the higher priority and adds the port to the origins (R39). -/
theorem State.merge_eq (s : State) (p : Port) (k : SlotIdx) (c : Callout) (low : priority.toNat ≤ 7) :
    let c' := { c with
      origins := ⟨c.origins.a || p = .a, c.origins.b || p = .b, c.origins.c || p = .c⟩
      priority := if c.priority.toNat < priority.toNat then priority.setWidth 3 else c.priority }
    s.merge p k c (priority.setWidth 3) = (s.setSlot k (some c')).raiseNotice (s.interested c')
      ⟨.merged, c.number, 255, byteOf c'.priority.toNat, portCode p, c'.origins.code, 0⟩ := by
  have higher : c.priority < priority.setWidth 3 ↔ c.priority.toNat < priority.toNat := by
    rw [BitVec.lt_def, toNat_priority low]
  simp only [State.merge, higher]
  rfl

/-- Settles O23, test by test. -/
theorem raiseMergesOrIsRefused : Obligations.RaiseMergesOrIsRefused := by
  intro s p reference plan priority cls location taken working raise
  have request : raise = _ := exec_raise taken working
  refine ⟨fun wide => ?_, fun low near => ?_⟩
  · rw [request, raiseBody_wide wide]
    rfl
  have narrow : ¬(7 < priority.toNat ∨ 262143 < location.toNat) := by omega
  refine ⟨fun k c held same lowest => ⟨fun inactive => ?_, fun active => ?_⟩, fun unused => ⟨fun unfit => ?_, ?_⟩⟩
  · rw [request, raiseBody_known narrow held same lowest, if_neg (by simp [inactive])]
    rfl
  · rw [request, raiseBody_known narrow held same lowest, if_pos active, State.merge_eq s p k c low]
    rfl
  · rw [request, raiseBody_unfit narrow unused unfit]
    rfl
  · rintro i nonzero rfl runnable full
    rw [request, raiseBody_fit narrow unused nonzero runnable, State.freeSlot_none.2 full]
    rfl

/-! ### The new callout (R40) -/

/-- The Free slot taken is the lowest (R40). -/
theorem State.freeSlot_eq (free : s.slots[k] = none) (lower : ∀ j : SlotIdx, j < k → s.slots[j] ≠ none) :
    s.freeSlot = some k := by
  cases found : s.freeSlot with
  | none => exact absurd free (State.freeSlot_none.1 found k)
  | some j =>
    have above : k ≤ j := not_lt.1 fun below => lower j below (State.freeSlot_some found)
    obtain ⟨-, before, after, split, passed⟩ := List.find?_eq_some_iff_append.1 found
    have ascending : (before ++ j :: after).Pairwise (· < ·) := split ▸ List.pairwise_lt_finRange 8
    have here : k ∈ before ++ j :: after := split ▸ List.mem_finRange k
    rcases List.mem_append.1 here with early | late
    · have taken := passed k early
      simp [free] at taken
    · rcases List.mem_cons.1 late with rfl | late
      · rfl
      · exact absurd ((List.pairwise_cons.1 (List.pairwise_append.1 ascending).2.1).1 k late) (not_lt.2 above)

/-- Without a candidate no seat is filled (R93). -/
theorem Filling.fillSeats_empty (t : Template) (x : Role) (n : Nat) : Filling.fillSeats t x n ⟨[], []⟩ = ⟨[], []⟩ := by
  cases n <;> rfl

theorem fillRoles_nil (t : Template) : fillRoles t [] = ⟨[], []⟩ := by
  have all : ∀ l : List Role, l.foldl (fun f x => f.fillSeats t x (t.seatsOf x)) (⟨[], []⟩ : Filling) = ⟨[], []⟩ := by
    intro l
    induction l with
    | nil => rfl
    | cons x rest ih => rw [List.foldl_cons, Filling.fillSeats_empty, ih]
  exact all _

/-- A template that is written and in range has a seat (R22). -/
theorem Template.inRange.has_seat {t : Template} (h : t.inRange) (written : t.written = true) :
    ¬(t.officer = 0 ∧ t.driver = 0 ∧ t.wearer = 0 ∧ t.total - (t.officer + t.driver + t.wearer) = 0) := by
  rcases h with rfl | ⟨-, -, -, seats, -⟩
  · cases written
  · omega

/-- The crew of an empty responder list: every seat unfilled (R86, R99). -/
theorem assemble_nil {t : Template} (h : t.inRange) (written : t.written = true) :
    assemble t [] =
      { applied := ⟨t.officer, t.driver, t.wearer, t.total - (t.officer + t.driver + t.wearer)⟩
        target := t.target
        roleOrder := (assemble t []).roleOrder
        seats := List.replicate t.officer ⟨.officer, none⟩ ++ List.replicate t.driver ⟨.driver, none⟩ ++
          List.replicate t.wearer ⟨.wearer, none⟩ ++
          List.replicate (t.total - (t.officer + t.driver + t.wearer)) ⟨.crew, none⟩
        missing := ⟨t.officer, t.driver, t.wearer, t.total - (t.officer + t.driver + t.wearer)⟩
        status := .short
        ready := none } := by
  have short := h.has_seat written
  simp [assemble, fillRoles_nil, seatGroup, Filling.unfilled, Filling.filled, Template.seatsOf, Template.crewSeats, statusOf, short]

/-- Settles O22: the tests passed, the lowest Free slot, and the crew of an empty list. -/
theorem raiseAllocatesANewCallout : Obligations.RaiseAllocatesANewCallout := by
  intro s p reference i priority cls location k taken working low near nonzero unused runnable inRange written free lower
    x crewSeats c
  have narrow : ¬(7 < priority.toNat ∨ 262143 < location.toNat) := by omega
  have filled : s.newCallout p reference i (priority.setWidth 3) cls (location.setWidth 18) = c := by
    rw [State.newCallout, assemble_nil inRange written]
    rfl
  have coded : byteOf (priority.setWidth 3).toNat = priority := by
    rw [toNat_priority low, byteOf, BitVec.ofNat_toNat, BitVec.setWidth_eq]
  have told : raisedNotice c p k = ⟨.raised, c.number, 255, byteOf i, priority, portCode p, byteOf k⟩ := by
    rw [raisedNotice, show byteOf c.priority.toNat = priority from coded]
    rfl
  rw [exec_raise taken working, raiseBody_fit narrow unused nonzero runnable, State.freeSlot_eq free lower]
  dsimp only
  rw [filled, State.allocate, told]
  rfl

end Sys2Proof.Machine
end

section
/-! PROOF. The evaluation of a crew and its writing back, and Escalate (R51, R91, R100 to R102). -/

namespace Sys2Proof.Machine

open Sys2Proof

variable {s : State} {c : Callout} {m : MemberIdx} {number : Half}

/-! ### The evaluation (R91, R100) -/

theorem Entry.isCandidate_iff {e : Entry} : e.isCandidate = true ↔ e.answer = .attending ∨ e.answer = .arrived := by
  unfold Entry.isCandidate
  cases e.answer <;> simp

/-- The seat of a candidate under an assignment: that of the seat record that holds its member, or Standby (R100). -/
def Crew.seatFor (w : Crew) (m : MemberIdx) : Seat :=
  match w.seats.find? fun x => x.member = some m with
  | some x => .seated x.role
  | none => .standby

theorem seatIn_candidate (w : Crew) {e : Entry} (candidate : e.isCandidate = true) : seatIn w e = w.seatFor e.member :=
  if_pos candidate

theorem seatIn_other (w : Crew) {e : Entry} (other : ¬e.isCandidate = true) : seatIn w e = .unseated := if_neg other

theorem State.mem_evaluated_entries {e : Entry} : e ∈ (s.evaluated c).entries ↔
    ∃ x ∈ c.entries, { x with seat := seatIn (s.evaluated c).crew x } = e := List.mem_map

/-! ### Writing back (R101) -/

/-- The engagement that a seat gives its member: Assigned for a seat, Responding for Standby, none for no seat (R101). -/
def Seat.engagement (number : Half) : Seat → Option Engagement
  | .seated _ => some (.assigned number)
  | .standby => some (.responding number)
  | .unseated => none

/-- One entry written back: its member alone, and of the member the engagement alone (R101). -/
theorem State.member_engageEntry (number : Half) (s : State) (e : Entry) (m : MemberIdx) :
    (State.engageEntry number s e).member m =
      if e.member = m then
        { s.member m with engagement := (e.seat.engagement number).getD (s.member m).engagement }
      else s.member m := by
  have written : ∀ x : Engagement, (s.engage e.member x).member m =
      if e.member = m then { s.member m with engagement := x } else s.member m := fun x => by
    split
    · rename_i here
      subst here
      exact State.member_engage_self _ _ _
    · rename_i other
      exact State.member_engage_other _ _ (Ne.symm other)
  unfold State.engageEntry
  cases e.seat with
  | seated role => exact written _
  | standby => exact written _
  | unseated => exact (ite_self _).symm

/-- Where the entries of a member agree on its engagement, writing them back gives it that engagement, if one of them gives any. -/
theorem State.member_foldl_engageEntry (number : Half) (y : Engagement) (l : List Entry) (s : State)
    (agree : ∀ e ∈ l, e.member = m → e.seat.engagement number = none ∨ e.seat.engagement number = some y) :
    (l.foldl (State.engageEntry number) s).member m =
      if ∃ e ∈ l, e.member = m ∧ e.seat.engagement number = some y then { s.member m with engagement := y }
      else s.member m := by
  induction l generalizing s with
  | nil => simp
  | cons e rest ih =>
    rw [List.foldl_cons, ih _ fun x hx => agree x (List.mem_cons_of_mem _ hx), State.member_engageEntry]
    by_cases here : e.member = m
    · rcases agree e List.mem_cons_self here with none | some
      · simp [here, none]
      · simp [here, some]
    · simp [here]

/-- Writing back touches the engagements alone (R101). -/
theorem State.settle_engagements (s : State) (k : SlotIdx) (c : Callout) (m : MemberIdx) :
    { (s.settle k c).member m with engagement := (s.member m).engagement } = s.member m := by
  have all : ∀ (l : List Entry) (t : State),
      { (l.foldl (State.engageEntry c.number) t).member m with engagement := (t.member m).engagement } = t.member m := by
    intro l
    induction l with
    | nil => exact fun _ => rfl
    | cons e rest ih =>
      intro t
      have one : { (State.engageEntry c.number t e).member m with engagement := (t.member m).engagement } = t.member m := by
        rw [State.member_engageEntry]
        split <;> rfl
      have tail := congrArg (fun x : Member => { x with engagement := (t.member m).engagement }) (ih (State.engageEntry c.number t e))
      exact tail.trans one
  exact all c.entries (s.setSlot k (some c))

/-- The engagement of a member after an evaluation has been written back: what its seat gives, if it is a candidate, and its own
otherwise (R100, R101). -/
theorem State.member_settle_evaluated (s : State) (k : SlotIdx) (c : Callout) {y : Engagement}
    (seat : ((s.evaluated c).crew.seatFor m).engagement c.number = some y) :
    (s.settle k (s.evaluated c)).member m =
      if ∃ e ∈ c.entries, e.member = m ∧ e.isCandidate = true then { s.member m with engagement := y } else s.member m := by
  have seated : ∀ x ∈ c.entries, x.member = m →
      (seatIn (s.evaluated c).crew x).engagement c.number = if x.isCandidate = true then some y else none := by
    rintro x - rfl
    split
    · rename_i candidate
      rw [seatIn_candidate _ candidate, seat]
    · rename_i other
      rw [seatIn_other _ other]
      rfl
  have written : (s.settle k (s.evaluated c)).member m = _ :=
    State.member_foldl_engageEntry c.number y (s.evaluated c).entries (s.setSlot k (some (s.evaluated c))) fun e he here => by
      obtain ⟨x, hx, rfl⟩ := State.mem_evaluated_entries.1 he
      rw [seated x hx here]
      split
      · exact .inr rfl
      · exact .inl rfl
  refine written.trans (if_congr ?_ rfl rfl)
  constructor
  · rintro ⟨e, he, here, gives⟩
    obtain ⟨x, hx, rfl⟩ := State.mem_evaluated_entries.1 he
    refine ⟨x, hx, here, ?_⟩
    by_contra other
    rw [seated x hx here, if_neg other] at gives
    cases gives
  · rintro ⟨x, hx, here, candidate⟩
    exact ⟨_, State.mem_evaluated_entries.2 ⟨x, hx, rfl⟩, here, (seated x hx here).trans (if_pos candidate)⟩

/-- The seat of an evaluated entry that has one, and the entry a candidate's (R100). -/
theorem State.seat_of_evaluated {e : Entry} (he : e ∈ (s.evaluated c).entries) (seated : e.seat ≠ .unseated) :
    e.seat = (s.evaluated c).crew.seatFor e.member ∧ ∃ x ∈ c.entries, x.member = e.member ∧ x.isCandidate = true := by
  obtain ⟨x, hx, rfl⟩ := State.mem_evaluated_entries.1 he
  by_cases candidate : x.isCandidate = true
  · exact ⟨seatIn_candidate _ candidate, x, hx, rfl, candidate⟩
  · exact absurd (seatIn_other _ candidate) seated

/-- The member of an evaluated entry that has a seat is engaged by that seat (R101). -/
theorem State.engagement_of_evaluated (k : SlotIdx) {e : Entry} (he : e ∈ (s.evaluated c).entries) {y : Engagement}
    (gives : e.seat.engagement c.number = some y) : ((s.settle k (s.evaluated c)).member e.member).engagement = y := by
  obtain ⟨seat, candidate⟩ := State.seat_of_evaluated he fun unseated => by
    rw [unseated] at gives
    cases gives
  rw [seat] at gives
  rw [State.member_settle_evaluated s k c gives, if_pos candidate]

theorem State.member_settle_unnamed (s : State) (k : SlotIdx) (c : Callout)
    (none : ∀ e ∈ c.entries, e.isCandidate = true → e.member ≠ m) : (s.settle k (s.evaluated c)).member m = s.member m := by
  have some : ∃ y, ((s.evaluated c).crew.seatFor m).engagement c.number = some y := by
    unfold Crew.seatFor
    split <;> exact ⟨_, rfl⟩
  obtain ⟨y, gives⟩ := some
  rw [State.member_settle_evaluated s k c gives]
  exact if_neg fun ⟨e, he, here, candidate⟩ => none e he candidate here

/-! ### The notice (R102) -/

theorem Crew.mem_seated {w : Crew} : m ∈ w.seated ↔ ∃ x ∈ w.seats, x.member = some m := by
  simp [Crew.seated]

/-- Two assignments do not differ when status, crew-ready estimate and the set of seated members are the same (R102). -/
theorem crewChanged_iff {old new : Crew} : ¬crewChanged old new = true ↔
    old.status = new.status ∧ old.ready = new.ready ∧
      ∀ m, (∃ x ∈ old.seats, x.member = some m) ↔ ∃ x ∈ new.seats, x.member = some m := by
  simp only [← Crew.mem_seated, crewChanged, Bool.or_eq_true, decide_eq_true_eq, Bool.not_eq_true', Bool.and_eq_false_iff, not_or,
    ne_eq, not_not, Bool.not_eq_false, List.all_eq_true, and_assoc]
  exact and_congr_right' (and_congr_right' ⟨fun h m => ⟨h.1 m, h.2 m⟩, fun h => ⟨fun m => (h m).1, fun m => (h m).2⟩⟩)

/-! ### Escalate (R51) -/

/-- The usage counts moved from one plan to another (R51). -/
theorem State.leavePlan_takeUpPlan (s : State) {i j : PlanIdx} (other : j ≠ i) : (s.leavePlan i).takeUpPlan j =
    (s.setPlan i { s.plans[i] with usage := s.plans[i].usage - 1 }).setPlan j
      { s.plans[j] with usage := s.plans[j].usage + 1 } := by
  have kept : (s.leavePlan i).plans[j] = s.plans[j] := State.plans_setPlan_other s _ other
  rw [State.takeUpPlan, kept]
  rfl

theorem exec_escalate {p : Port} {k : SlotIdx} {i : PlanIdx} (taken : s.takes p) (named : s.lookup c.number = some (k, c))
    (allowed : (s.port p).cls = .station ∨ c.origins.has p = true) (active : c.isActive = true)
    (runnable : s.plans[i].runnable = true) :
    exec (.escalate p c.number (byteOf i)) s = .next ((s.escalateTo k c i).respond p [0]) := by
  show Host.Outcome.next (s.takeRequest p .any (escalateBody p c.number (byteOf i))) = _
  rw [State.takeRequest_any taken, escalateBody, State.permitted_allowed named allowed, if_pos active]
  simp only [readIndex_plan, runnable, if_true]
  rfl

/-- Settles O29: the evaluation, its writing back and its notice; and the request. -/
theorem escalateRestartsThePlan : Obligations.EscalateRestartsThePlan := by
  constructor
  · intro s k c counts crew seatOf c'
    have counted : ∀ e : Entry, e.isCandidate = decide (counts e) := fun e => by
      rw [Bool.eq_iff_iff, decide_eq_true_iff]
      exact Entry.isCandidate_iff
    have assembled : c'.crew = crew := by
      show assemble _ (candidatesOf s.roster c.entries) = _
      rw [candidatesOf, funext counted]
      rfl
    refine ⟨assembled, rfl, ?_, ⟨(s.settle_frame k c').2, ?_, s.settle_engagements k c',
      fun e he role seat => State.engagement_of_evaluated k he (seat ▸ rfl),
      fun e he seat => State.engagement_of_evaluated k he (seat ▸ rfl),
      fun m none => State.member_settle_unnamed s k c fun e he candidate => none e he (Entry.isCandidate_iff.1 candidate)⟩,
      fun old => ⟨fun unchanged => if_neg (crewChanged_iff.2 unchanged), fun changed => ?_⟩⟩
    · show c.entries.map (fun e => { e with seat := seatIn c'.crew e }) = _
      refine List.map_congr_left fun e _ => ?_
      have seat : seatIn c'.crew e = seatOf e := by
        rw [assembled]
        exact if_congr Entry.isCandidate_iff rfl rfl
      rw [seat]
    · have frame := (s.settle_frame k c').1
      exact frame
    · have differs : crewChanged old c.crew = true := by
        by_contra unchanged
        exact changed (crewChanged_iff.1 unchanged)
      exact if_pos differs
  · intro s p k c i taken named allowed active runnable moved c'
    have counts : (if i = c.plan then s else (s.leavePlan c.plan).takeUpPlan i) = moved := by
      by_cases same : i = c.plan
      · rw [if_pos same]
        exact (if_pos same).symm
      · rw [if_neg same, State.leavePlan_takeUpPlan s same]
        exact (if_neg same).symm
    rw [exec_escalate taken named allowed active runnable, State.escalateTo, counts]
    rfl

end Sys2Proof.Machine
end

section
/-! PROOF. The lengths of frames and their costs, and the bits of a beacon (R46, R115, R136 to R139, R187). -/

namespace Sys2Proof.Machine

open Sys2Proof

/-! ### Lengths -/

@[simp] theorem length_bitsOf {w : Nat} (x : BitVec w) : (bitsOf x).length = w := by simp [bitsOf]

@[simp] theorem length_zeros (n : Nat) : (zeros n).length = n := by simp [zeros]

@[simp] theorem length_encoderInput (data : List Bool) : (encoderInput data).length = data.length + 20 := by
  simp [encoderInput]

@[simp] theorem length_codedPairs (reg : BitVec 4) (data : List Bool) : (codedPairs reg data).length = data.length := by
  induction data generalizing reg with
  | nil => rfl
  | cons b rest ih => exact congrArg (· + 1) (ih _)

/-! ### Puncturing (R138) -/

/-- The rate 1/2 keeps both symbols of every pair. -/
theorem length_punctured_half (position : Nat) (pairs : List (Bool × Bool)) :
    (punctured .half position pairs).length = 2 * pairs.length := by
  induction pairs generalizing position with
  | nil => rfl
  | cons pair rest ih =>
    have kept : (keptAt .half position pair).length = 2 := by cases position <;> rfl
    rw [punctured, List.length_append, kept, ih, List.length_cons]
    omega

/-- The rate 2/3 keeps three symbols of every two pairs, the two of the first and one of the second. -/
theorem length_punctured_twoThirds (pairs : List (Bool × Bool)) :
    (punctured .twoThirds 0 pairs).length = (3 * pairs.length + 1) / 2 ∧
      (punctured .twoThirds 1 pairs).length = 3 * pairs.length / 2 := by
  induction pairs with
  | nil => exact ⟨rfl, rfl⟩
  | cons pair rest ih =>
    obtain ⟨first, second⟩ := ih
    constructor
    · show (punctured .twoThirds 1 rest).length + 2 = (3 * (rest.length + 1) + 1) / 2
      omega
    · show (punctured .twoThirds 0 rest).length + 1 = 3 * (rest.length + 1) / 2
      omega

/-- The rate 3/4 keeps four symbols of every three pairs, the two of the first and one of each other. -/
theorem length_punctured_threeQuarters (pairs : List (Bool × Bool)) :
    (punctured .threeQuarters 0 pairs).length = (4 * pairs.length + 2) / 3 ∧
      (punctured .threeQuarters 1 pairs).length = 4 * pairs.length / 3 ∧
      (punctured .threeQuarters 2 pairs).length = (4 * pairs.length + 1) / 3 := by
  induction pairs with
  | nil => exact ⟨rfl, rfl, rfl⟩
  | cons pair rest ih =>
    obtain ⟨first, second, third⟩ := ih
    refine ⟨?_, ?_, ?_⟩
    · show (punctured .threeQuarters 1 rest).length + 2 = (4 * (rest.length + 1) + 2) / 3
      omega
    · show (punctured .threeQuarters 2 rest).length + 1 = 4 * (rest.length + 1) / 3
      omega
    · show (punctured .threeQuarters 0 rest).length + 1 = (4 * (rest.length + 1) + 1) / 3
      omega

/-- The coded symbols of 80 data bits, of which the encoder takes 100 with CRC and tail (R136 to R138). -/
theorem length_codedSymbols {data : List Bool} (full : data.length = 80) (rate : CodeRate) :
    (codedSymbols data rate).length = match rate with
      | .half => 200
      | .twoThirds => 150
      | .threeQuarters => 134 := by
  have pairs : (codedPairs 0 (encoderInput data)).length = 100 := by simp [full]
  unfold codedSymbols
  cases rate
  · rw [length_punctured_half, pairs]
  · rw [(length_punctured_twoThirds _).1, pairs]
  · rw [(length_punctured_threeQuarters _).1, pairs]

/-! ### Frames (R134, R187) -/

theorem ItemKind.isFrame_iff {k : ItemKind} : k.isFrame = true ↔ ∀ g, k ≠ .toneCall g := by
  cases k <;> simp [ItemKind.isFrame]

theorem length_alertData (s : State) (kind : BitVec 4) (address : BitVec 20) (number : Half) :
    (s.alertData kind address number).length = 80 := by
  unfold State.alertData
  split <;> simp [alertBits]

theorem length_frameData (s : State) {i : TxItem} (frame : i.kind.isFrame = true) : (s.frameData i).length = 80 := by
  unfold State.frameData
  cases kind : i.kind with
  | groupAlert g r => exact length_alertData s _ _ _
  | memberAlert m r => exact length_alertData s _ _ _
  | toneCall g => exact absurd kind (ItemKind.isFrame_iff.1 frame g)
  | standDown => simp [noticeBits]
  | closing => simp [noticeBits]

/-- A frame occupies its sync pattern and its coded symbols, which is its cost (R115, R139). -/
theorem length_frame (s : State) {i : TxItem} (frame : i.kind.isFrame = true) :
    (frameSync ++ codedSymbols (s.frameData i) i.kind.frameRate).length = i.kind.cost := by
  have sync : frameSync.length = 24 := length_bitsOf _
  rw [List.length_append, sync, length_codedSymbols (length_frameData s frame)]
  cases kind : i.kind with
  | groupAlert g r => cases r <;> rfl
  | memberAlert m r => cases r <;> rfl
  | toneCall g => exact absurd kind (ItemKind.isFrame_iff.1 frame g)
  | standDown => rfl
  | closing => rfl

/-! ### The beacon (R187) -/

/-- The 80 bits of a beacon, written out place by place (R187). -/
theorem beaconBits_eq (cycle : Half) (station : Byte) (wake : BitVec 12) (others : Bool) (keyed : Site) :
    beaconBits cycle station wake others keyed = (List.range 80).map fun i =>
      if i < 4 then decide (i = 3) else if i < 20 then cycle.getLsbD (19 - i) else if i < 28 then station.getLsbD (27 - i)
      else if i < 40 then wake.getLsbD (i - 28) else if i = 40 then others else if i = 41 then decide (keyed = .b) else false := by
  rfl

/-- Settles O52: the costs kind by kind, the lengths, and the bits of a beacon. -/
theorem framesOccupyTheirCost : Obligations.FramesOccupyTheirCost := by
  refine ⟨⟨fun _ r => ⟨by cases r <;> rfl, rfl⟩, fun _ r => ⟨by cases r <;> rfl, rfl⟩, rfl, rfl, rfl, rfl, fun _ => rfl,
    fun k => ItemKind.isFrame_iff, fun _ => rfl⟩, fun s i frame => ⟨length_frameData s frame, length_frame s frame⟩,
    fun cycle station wake others keyed => ?_, rfl, rfl, fun data rate full => ?_⟩
  · have bits := beaconBits_eq cycle station wake others keyed
    have full : (beaconBits cycle station wake others keyed).length = 80 := by rw [bits, List.length_map, List.length_range]
    refine ⟨full, ?_, fun i within => ?_⟩
    · have sync : beaconSync.length = 24 := length_bitsOf _
      have coded : (codedSymbols (beaconBits cycle station wake others keyed) .half).length = 200 := length_codedSymbols full .half
      rw [List.length_append, sync, coded]
    · rw [bits, List.getElem?_map, List.getElem?_range within, Option.map_some]
  · exact length_codedSymbols full rate

end Sys2Proof.Machine
end

section
/-! PROOF. The cycle plan of a plan point: the order of the callouts, their turns, and what the beacon says of the plan (R47, R114,
R116 to R118). -/

namespace Sys2Proof.Machine

open Sys2Proof

variable {s : State}

/-! ### The order of the callouts (R116) -/

/-- The plan order, with a callout level with itself: higher priority first, then lower number (R116). -/
def notPlannedAfter (x y : SlotIdx × Callout) : Prop :=
  y.2.priority.toNat < x.2.priority.toNat ∨ (x.2.priority = y.2.priority ∧ x.2.number.toNat ≤ y.2.number.toNat)

theorem plannedBefore_iff {x y : SlotIdx × Callout} : plannedBefore x y = true ↔
    y.2.priority.toNat < x.2.priority.toNat ∨ (x.2.priority = y.2.priority ∧ x.2.number.toNat < y.2.number.toNat) := by
  simp [plannedBefore, BitVec.lt_def]

theorem notPlannedAfter_of_before {x y : SlotIdx × Callout} (h : plannedBefore x y = true) : notPlannedAfter x y :=
  (plannedBefore_iff.1 h).imp_right fun ⟨same, lower⟩ => ⟨same, lower.le⟩

theorem notPlannedAfter_of_not_before {x y : SlotIdx × Callout} (h : plannedBefore y x = false) : notPlannedAfter x y := by
  rw [← Bool.not_eq_true, plannedBefore_iff] at h
  simp only [notPlannedAfter, ← BitVec.toNat_inj] at h ⊢
  omega

theorem notPlannedAfter_trans {x y z : SlotIdx × Callout} (h : notPlannedAfter x y) (g : notPlannedAfter y z) :
    notPlannedAfter x z := by
  simp only [notPlannedAfter, ← BitVec.toNat_inj] at *
  omega

theorem State.waiting_ordered (s : State) : s.waiting.Pairwise notPlannedAfter :=
  sortBy_pairwise _ _ _ (fun _ _ => notPlannedAfter_of_before) (fun _ _ => notPlannedAfter_of_not_before)
    fun _ _ _ => notPlannedAfter_trans

/-! ### A turn (R116) -/

theorem costOf_cons (i : TxItem) (l : List TxItem) : costOf (i :: l) = i.kind.cost + costOf l := rfl

theorem costOf_append (l m : List TxItem) : costOf (l ++ m) = costOf l + costOf m := by simp [costOf]

theorem takeTurn_stop {budget : Nat} {stood : Bool} {i : TxItem} {rest : List TxItem}
    (h : ¬(i.kind.cost ≤ budget ∧ ¬(stood = true ∧ i.kind = .standDown))) :
    takeTurn budget stood (i :: rest) = ([], i :: rest) := if_neg h

theorem takeTurn_take {budget : Nat} {stood : Bool} {i : TxItem} {rest : List TxItem}
    (h : i.kind.cost ≤ budget ∧ ¬(stood = true ∧ i.kind = .standDown)) :
    takeTurn budget stood (i :: rest) =
      (i :: (takeTurn (budget - i.kind.cost) (stood || i.kind = .standDown) rest).1,
        (takeTurn (budget - i.kind.cost) (stood || i.kind = .standDown) rest).2) := if_pos h

theorem costOf_takeTurn_le (budget : Nat) (stood : Bool) (queue : List TxItem) :
    costOf (takeTurn budget stood queue).1 ≤ budget := by
  induction queue generalizing budget stood with
  | nil => exact Nat.zero_le _
  | cons i rest ih =>
    by_cases h : i.kind.cost ≤ budget ∧ ¬(stood = true ∧ i.kind = .standDown)
    · rw [takeTurn_take h, costOf_cons]
      have later := ih (budget - i.kind.cost) (stood || i.kind = .standDown)
      omega
    · rw [takeTurn_stop h]
      exact Nat.zero_le _

/-- A turn plans no Stand-down after one that is planned (R116). -/
theorem countP_standDown_takeTurn (budget : Nat) (stood : Bool) (queue : List TxItem) :
    ((takeTurn budget stood queue).1.countP fun i => i.kind = .standDown) ≤ if stood = true then 0 else 1 := by
  induction queue generalizing budget stood with
  | nil => exact Nat.zero_le _
  | cons i rest ih =>
    by_cases h : i.kind.cost ≤ budget ∧ ¬(stood = true ∧ i.kind = .standDown)
    · have later := ih (budget - i.kind.cost) (stood || i.kind = .standDown)
      rw [takeTurn_take h, List.countP_cons]
      by_cases down : i.kind = .standDown
      · have first : ¬stood = true := fun stood => h.2 ⟨stood, down⟩
        simp only [down, decide_true, Bool.or_true, if_true] at later ⊢
        rw [if_neg first]
        exact Nat.succ_le_succ later
      · simpa [down] using later
    · rw [takeTurn_stop h]
      exact Nat.zero_le _

/-- What ends a turn: an item that the budget left does not hold, or a second Stand-down (R116). -/
theorem takeTurn_ends (budget : Nat) (stood : Bool) (queue : List TxItem) {i : TxItem} {rest : List TxItem}
    (left : (takeTurn budget stood queue).2 = i :: rest) :
    budget - costOf (takeTurn budget stood queue).1 < i.kind.cost ∨
      (i.kind = .standDown ∧ (stood = true ∨ ∃ j ∈ (takeTurn budget stood queue).1, j.kind = .standDown)) := by
  induction queue generalizing budget stood with
  | nil => cases left
  | cons x queue ih =>
    by_cases h : x.kind.cost ≤ budget ∧ ¬(stood = true ∧ x.kind = .standDown)
    · rw [takeTurn_take h] at left ⊢
      rcases ih _ _ left with beyond | ⟨down, before⟩
      · rw [costOf_cons]
        exact .inl (by rwa [← Nat.sub_sub])
      · refine .inr ⟨down, ?_⟩
        rcases before with before | ⟨j, hj, earlier⟩
        · rw [Bool.or_eq_true, decide_eq_true_eq] at before
          exact before.imp_right fun this => ⟨x, List.mem_cons_self, this⟩
        · exact .inr ⟨j, List.mem_cons_of_mem _ hj, earlier⟩
    · rw [takeTurn_stop h] at left ⊢
      obtain ⟨rfl, -⟩ := List.cons.inj left
      rw [not_and_or, not_not, Nat.not_le] at h
      exact h.imp id fun ⟨stood, down⟩ => ⟨down, .inl stood⟩

theorem costOf_planTurns_le (budget : Nat) (l : List (SlotIdx × Callout)) :
    costOf ((planTurns budget l).flatMap (·.planned)) ≤ budget := by
  induction l generalizing budget with
  | nil => exact Nat.zero_le _
  | cons x rest ih =>
    have first := costOf_takeTurn_le budget false x.2.queue
    have later := ih (budget - costOf (takeTurn budget false x.2.queue).1)
    simp only [planTurns, List.flatMap_cons, costOf_append]
    omega

/-! ### The turns of a plan point -/

/-- The callouts in plan order, each with the items that its turn plans and those that it leaves (R116). -/
def turnsTaken : Nat → List (SlotIdx × Callout) → List (SlotIdx × Callout × List TxItem × List TxItem)
  | _, [] => []
  | budget, (k, c) :: rest =>
    (k, c, takeTurn budget false c.queue) :: turnsTaken (budget - costOf (takeTurn budget false c.queue).1) rest

/-- They are the model's turns. -/
theorem planTurns_eq (budget : Nat) (l : List (SlotIdx × Callout)) : planTurns budget l =
    (turnsTaken budget l).map fun x => ⟨x.1, { x.2.1 with queue := x.2.2.2 }, x.2.2.1⟩ := by
  induction l generalizing budget with
  | nil => rfl
  | cons x rest ih => exact congrArg (List.cons _) (ih _)

theorem turnsTaken_callouts (budget : Nat) (l : List (SlotIdx × Callout)) :
    (turnsTaken budget l).map (fun x => (x.1, x.2.1)) = l := by
  induction l generalizing budget with
  | nil => rfl
  | cons x rest ih => exact congrArg (List.cons x) (ih _)

/-- Each turn has the budget that those before it left (R116). -/
theorem turnsTaken_split {budget : Nat} {l : List (SlotIdx × Callout)}
    {earlier later : List (SlotIdx × Callout × List TxItem × List TxItem)} {k : SlotIdx} {c : Callout}
    {turn : List TxItem × List TxItem} (split : turnsTaken budget l = earlier ++ (k, c, turn) :: later) :
    turn = takeTurn (budget - costOf (earlier.flatMap fun x => x.2.2.1)) false c.queue := by
  induction earlier generalizing budget l with
  | nil =>
    cases l with
    | nil => cases split
    | cons x rest =>
      cases split
      rfl
  | cons y earlier ih =>
    cases l with
    | nil => cases split
    | cons x rest =>
      obtain ⟨rfl, rest⟩ := List.cons.inj split
      rw [ih rest, List.flatMap_cons, costOf_append, Nat.sub_sub]

/-- A turn leaves its callout the rest of its queue; one with an item planned is Alerting if it was Queued (R47). -/
theorem Turn.left_eq (k : SlotIdx) (c : Callout) (planned left : List TxItem) :
    (⟨k, { c with queue := left }, planned⟩ : Turn).left = { c with
      queue := left
      lifecycle := match c.lifecycle with
        | .active ⟨progress, repeats, rate⟩ =>
          .active ⟨if planned ≠ [] ∧ progress = .queued then .alerting else progress, repeats, rate⟩
        | lifecycle => lifecycle } := by
  unfold Turn.left Callout.withProgress
  rcases lifecycle : c.lifecycle with ⟨⟨progress, repeats, rate⟩⟩ | _ | _ <;> cases planned
  case active.cons =>
    by_cases queued : progress = .queued <;> simp [queued, Callout.withRun]
  all_goals simp

/-- What a turn leaves in its callout's slot (R47, R116). -/
theorem State.buildPlan_slots (s : State) {k : SlotIdx} {c : Callout} {planned left : List TxItem}
    (turn : (k, c, planned, left) ∈ turnsTaken 17760 s.waiting) : s.buildPlan.slots[k] = some { c with
      queue := left
      lifecycle := match c.lifecycle with
        | .active ⟨progress, repeats, rate⟩ =>
          .active ⟨if planned ≠ [] ∧ progress = .queued then .alerting else progress, repeats, rate⟩
        | lifecycle => lifecycle } := by
  have once : ((planTurns Config.outboundBudget s.waiting).map (·.slot)).Nodup := by
    rw [slots_planTurns]
    exact s.nodup_waiting
  have held := (State.slots_foldl_turns _ s once).1 ⟨k, { c with queue := left }, planned⟩ (by
    rw [planTurns_eq]
    exact List.mem_map.2 ⟨_, turn, rfl⟩)
  exact held.trans (congrArg some (Turn.left_eq k c planned left))

theorem State.buildPlan_other (s : State) {k : SlotIdx} (idle : ∀ c, (k, c) ∉ s.waiting) :
    s.buildPlan.slots[k] = s.slots[k] := by
  have once : ((planTurns Config.outboundBudget s.waiting).map (·.slot)).Nodup := by
    rw [slots_planTurns]
    exact s.nodup_waiting
  refine (State.slots_foldl_turns _ s once).2 k fun turn => ?_
  rw [slots_planTurns] at turn
  obtain ⟨⟨_, c⟩, waits, rfl⟩ := List.mem_map.1 turn
  exact idle c waits

theorem State.buildPlan_plan (s : State) : s.buildPlan.channel.plan =
    layOut 240 ((turnsTaken 17760 s.waiting).flatMap fun x => x.2.2.1) := by
  have items : (planTurns Config.outboundBudget s.waiting).flatMap (·.planned) =
      (turnsTaken 17760 s.waiting).flatMap fun x => x.2.2.1 := by
    rw [planTurns_eq, List.flatMap_map]
    rfl
  exact congrArg (layOut 240) items

/-! ### What the beacon says of the plan (R118) -/

theorem getLsbD_groupBit (g h : GroupIdx) : (groupBit g).getLsbD h = decide (h = g) := by
  revert g h
  decide

theorem wakeMask_group {plan : List PlannedItem} {e : PlannedItem} {g : GroupIdx} {r : CodeRate}
    (kind : e.item.kind = .groupAlert g r) : wakeMask (plan ++ [e]) = wakeMask plan ||| groupBit g := by
  simp only [wakeMask, List.foldl_append, List.foldl_cons, List.foldl_nil, kind]

theorem wakeMask_other {plan : List PlannedItem} {e : PlannedItem} (kind : ∀ g r, e.item.kind ≠ .groupAlert g r) :
    wakeMask (plan ++ [e]) = wakeMask plan := by
  simp only [wakeMask, List.foldl_append, List.foldl_cons, List.foldl_nil]

theorem mem_wakeMask {plan : List PlannedItem} {g : GroupIdx} :
    (wakeMask plan).getLsbD g = true ↔ ∃ e ∈ plan, ∃ r, e.item.kind = .groupAlert g r := by
  induction plan using List.reverseRecOn with
  | nil => simp [wakeMask]
  | append_singleton rest e ih =>
    by_cases group : ∃ h r, e.item.kind = .groupAlert h r
    · obtain ⟨h, r, kind⟩ := group
      rw [wakeMask_group kind, BitVec.getLsbD_or, Bool.or_eq_true, ih, getLsbD_groupBit]
      simp [or_and_right, exists_or, kind, eq_comm]
    · have none : ∀ h r, e.item.kind ≠ .groupAlert h r := fun h r kind => group ⟨h, r, kind⟩
      rw [wakeMask_other none, ih]
      simp [or_and_right, exists_or, none]

theorem otherFrames_iff {plan : List PlannedItem} : otherFrames plan = true ↔
    ∃ e ∈ plan, (∃ m r, e.item.kind = .memberAlert m r) ∨ e.item.kind = .standDown ∨ e.item.kind = .closing := by
  rw [otherFrames, List.any_eq_true]
  refine exists_congr fun e => and_congr_right fun _ => ?_
  cases e.item.kind <;> simp

/-- Settles O47: the order, the turns, the plan built of them, and what the beacon says of it. -/
theorem cyclePlanTakesQueuesInPriorityOrder : Obligations.CyclePlanTakesQueuesInPriorityOrder := by
  refine ⟨fun s => ⟨fun k c => State.mem_waiting, s.waiting_ordered⟩, fun budget queue => ?_, costOf_planTurns_le, fun s => ?_,
    fun plan => ⟨fun g => mem_wakeMask, otherFrames_iff⟩⟩
  · refine ⟨takeTurn_append budget false queue, costOf_takeTurn_le budget false queue,
      countP_standDown_takeTurn budget false queue, fun i rest left => ?_⟩
    exact (takeTurn_ends budget false queue left).imp_right (And.imp_right fun before => before.resolve_left Bool.false_ne_true)
  · refine ⟨turnsTaken 17760 s.waiting, turnsTaken_callouts _ _, fun earlier later k c planned left split =>
      ⟨turnsTaken_split split, s.buildPlan_slots (split ▸ List.mem_append_right _ List.mem_cons_self)⟩, ?_, ?_, ?_,
      fun k => s.buildPlan_other, s.buildPlan_frame.1, ?_⟩
    · rw [s.buildPlan_plan]
      exact (layOut_items _ _).1
    · rw [s.buildPlan_plan]
      exact (layOut_items _ _).2
    · rw [s.buildPlan_plan]
      exact laidOut_layOut _ _
    · rw [s.buildPlan_frame.2]

end Sys2Proof.Machine
end

section
/-! PROOF. The completion of an item and what the callout engine makes of it (R47, R54, R125, R150). -/

namespace Sys2Proof.Machine

open Sys2Proof

variable {s : State} {k : SlotIdx} {c : Callout} {i : TxItem} {e : PlannedItem}

/-! ### Predicates of items -/

theorem ItemKind.isStep_iff {x : ItemKind} : x.isStep = true ↔ x ≠ .standDown ∧ x ≠ .closing := by
  cases x <;> simp [ItemKind.isStep]

theorem PlannedItem.unsent_iff : e.unsent = true ↔ e.state = .pending ∨ e.state = .onAir := by
  unfold PlannedItem.unsent
  cases e.state <;> simp

theorem State.stillSending_iff : s.stillSending c = true ↔ ∃ x ∈ s.channel.plan, (x.state = .pending ∨ x.state = .onAir) ∧
    x.item.callout = c.number ∧ x.item.serial = c.serial := by
  simp only [State.stillSending, List.any_eq_true, Bool.and_eq_true, decide_eq_true_eq, PlannedItem.unsent_iff, and_assoc]

/-- The item that completes is the one On air that ends at the position (R117, R125). -/
theorem State.completing_iff (fits : s.cyclePlanFits) : s.completing = some e ↔
    e ∈ s.channel.plan ∧ e.state = .onAir ∧ s.channel.pos = .cycle (e.start + e.cost) := by
  have due : ∀ x : PlannedItem, (decide (x.state = .onAir) && decide (s.channel.pos = .cycle x.finish)) = true ↔
      x.state = .onAir ∧ s.channel.pos = .cycle (x.start + x.cost) := fun x => by
    rw [Bool.and_eq_true, decide_eq_true_eq, decide_eq_true_eq]
    rfl
  unfold State.completing
  rw [find_eq_some_iff_unique, due]
  intro x hx endsX y hy endsY
  have positions := (((due x).1 endsX).2.symm.trans ((due y).1 endsY).2)
  exact laidOut_unique fits.1 hx hy (.inr (CyclePos.cycle.inj positions))

/-! ### The engine's part (R47, R54, R125) -/

theorem State.matchCompletion_unnamed (none : s.lookup i.callout = none) : s.matchCompletion i = s := by
  simp only [State.matchCompletion, none]

/-- A callout that does not take an item back does not take its completion (R125, R126). -/
theorem State.matchCompletion_untaken (named : s.lookup i.callout = some (k, c)) (untaken : c.takesBack i = false) :
    s.matchCompletion i = s :=
  s.matchCompletion_unmatched i fun j d found => by
    rw [named] at found
    cases found
    exact untaken

section Matched

variable (named : s.lookup i.callout = some (k, c)) (serial : c.serial = i.serial)
include named serial

theorem State.matchCompletion_active {run : ActiveRun} (active : c.lifecycle = .active run) (step : i.kind.isStep = true) :
    s.matchCompletion i = s.setSlot k (some (s.advance c)) := by
  simp only [State.matchCompletion, named, serial, active, step, if_true]

theorem State.matchCompletion_stoodDown (second : c.lifecycle = .standingDown 1) (down : i.kind = .standDown) :
    s.matchCompletion i = s.free k c .stoodDown := by
  simp only [State.matchCompletion, named, serial, second, down, if_true]

theorem State.matchCompletion_standingDown (first : c.lifecycle = .standingDown 0) (down : i.kind = .standDown) :
    s.matchCompletion i = s.setSlot k (some { c with lifecycle := .standingDown 1 }) := by
  simp only [State.matchCompletion, named, serial, first, down, if_true]
  rfl

end Matched

/-! ### The progress of an Active callout (R47) -/

section Progress

variable {progress : Progress} {repeats : Nat} {rate : Option CodeRate}

theorem State.advance_sending (sending : s.stillSending c = true) : s.advance c = c := if_pos sending

variable (active : c.lifecycle = .active ⟨progress, repeats, rate⟩) (sent : ¬s.stillSending c = true)
include active sent

theorem State.advance_queued (waits : c.queue ≠ []) :
    s.advance c = { c with lifecycle := .active ⟨.queued, repeats, rate⟩ } := by
  rw [State.advance, if_neg sent, if_neg (by simpa using waits), Callout.withProgress_active active]
  rfl

theorem State.advance_holding {action : Action} {condition : Condition} {hold n : Nat} (empty : c.queue = [])
    (acts : s.plans[c.plan].steps[c.step] = .act action condition hold n) :
    s.advance c = { c with lifecycle := .active ⟨.holding (min 4095 (c.elapsed + hold)) false, repeats, rate⟩ } := by
  have held : s.holdOf c = some hold := by simp only [State.holdOf, acts]
  rw [State.advance, if_neg sent, if_pos (by simp [empty])]
  simp only [held, Callout.withProgress_active active]
  rfl

end Progress

/-! ### The command -/

/-- An item Sent and no longer in hand (R125; log entry 16). -/
def State.itemSent (s : State) (e : PlannedItem) : State :=
  { s with
    channel := { s.channel with plan := s.channel.plan.map fun x => if x = e then { x with state := .sent } else x }
    tx := { s.tx with frame := [], tone := s.tx.tone.filter fun x => x.start ≠ e.start } }

theorem exec_completion (clocked : s.clocked = true) (due : s.completing = some e) :
    exec .completion s = .next ((s.itemSent e).matchCompletion e.item) := by
  show execCompletion s = _
  simp only [execCompletion, clocked, due, if_true]
  rfl

/-- Settles O49, lifecycle by lifecycle. -/
theorem completionsMatchByNumberAndSerial : Obligations.CompletionsMatchByNumberAndSerial := by
  refine ⟨fun s e => State.completing_iff, fun s e clocked due => ?_⟩
  rw [exec_completion clocked due]
  intro plan s' more
  have sending : ∀ c, (s.itemSent e).stillSending c = true ↔ more c := fun c => State.stillSending_iff
  have leaves : ∀ {t u : State}, t = u → (Host.Outcome.next t : Host.Outcome State Fault Refusal) = .next u :=
    fun same => congrArg Host.Outcome.next same
  refine ⟨fun none => leaves (State.matchCompletion_unnamed (s := s.itemSent e) none), fun k c named => ?_⟩
  have named : (s.itemSent e).lookup e.item.callout = some (k, c) := named
  have untaken : c.takesBack e.item = false →
      (Host.Outcome.next ((s.itemSent e).matchCompletion e.item) : Host.Outcome State Fault Refusal) = .next s' :=
    fun untaken => leaves (State.matchCompletion_untaken named untaken)
  refine ⟨fun other => untaken (by simp [Callout.takesBack, other]), fun serial => ⟨fun departed => untaken ?_,
    fun active other => untaken ?_, fun progress repeats rate active step step' => ?_, fun sent standing => ⟨fun other =>
    untaken ?_, fun down second => ?_, fun down first => ?_⟩⟩⟩
  · simp [Callout.takesBack, departed]
  · obtain ⟨run, active⟩ := Callout.isActive_iff.1 active
    have notStep : e.item.kind.isStep = false := by
      rw [← Bool.not_eq_true, ItemKind.isStep_iff, not_and_or, not_not, not_not]
      exact other
    simp [Callout.takesBack, active, notStep]
  · rw [State.matchCompletion_active named serial active (ItemKind.isStep_iff.2 ⟨step, step'⟩)]
    refine ⟨fun yet => ?_, fun none waits => ?_, fun none empty action condition hold n acts => ?_⟩
    · rw [State.advance_sending ((sending c).2 yet)]
      rfl
    · rw [State.advance_queued active (mt (sending c).1 none) waits]
      rfl
    · rw [State.advance_holding (s := s.itemSent e) active (mt (sending c).1 none) empty acts]
      rfl
  · simp [Callout.takesBack, standing, other]
  · subst second
    rw [State.matchCompletion_stoodDown named serial standing down]
    rfl
  · subst first
    rw [State.matchCompletion_standingDown named serial standing down]
    rfl

end Sys2Proof.Machine
end

section
/-! PROOF. The preparation of frames and tone calls (R46, R134 to R139, R145, R146, R187). -/

namespace Sys2Proof.Machine

open Sys2Proof

variable {s : State} {e : PlannedItem}

/-! ### When they are due (R117, R134, R145; log entries 5, 6 and 16) -/

/-- Every item of a plan that fits starts in the O section (R117). -/
theorem State.cyclePlanFits.start_le (fits : s.cyclePlanFits) (planned : e ∈ s.channel.plan) : 240 ≤ e.start :=
  (laidOut_bounds fits.1 e planned).1

theorem State.assembling_iff (fits : s.cyclePlanFits) : s.assembling = some e ↔ s.tx.assembled = none ∧ e ∈ s.channel.plan ∧
    e.state = .pending ∧ (∀ g, e.item.kind ≠ .toneCall g) ∧ ∃ p, s.channel.pos = .cycle p ∧ p + 1 = e.start := by
  have due : ∀ x : PlannedItem,
      (decide (x.state = .pending) && x.item.kind.isFrame && decide (s.channel.pos = .cycle (x.start - 1))) = true ↔
        x.state = .pending ∧ (∀ g, x.item.kind ≠ .toneCall g) ∧ s.channel.pos = .cycle (x.start - 1) := fun x => by
    rw [Bool.and_eq_true, Bool.and_eq_true, decide_eq_true_eq, decide_eq_true_eq, ItemKind.isFrame_iff, and_assoc]
  have before : ∀ x ∈ s.channel.plan, s.channel.pos = .cycle (x.start - 1) ↔
      ∃ p, s.channel.pos = .cycle p ∧ p + 1 = x.start := fun x hx => by
    have start := fits.start_le hx
    constructor
    · exact fun here => ⟨_, here, by omega⟩
    · rintro ⟨p, here, next⟩
      rw [here, ← next]
      rfl
  unfold State.assembling
  by_cases filled : s.tx.assembled.isSome = true
  · rw [if_pos filled]
    refine ⟨fun h => (by cases h), fun ⟨empty, _⟩ => ?_⟩
    rw [empty] at filled
    cases filled
  · rw [if_neg filled, find_eq_some_iff_unique, due]
    · rw [Bool.not_eq_true, Option.isSome_eq_false_iff, Option.isNone_iff_eq_none] at filled
      exact ⟨fun ⟨planned, pending, frame, here⟩ => ⟨filled, planned, pending, frame, (before e planned).1 here⟩,
        fun ⟨_, planned, pending, frame, here⟩ => ⟨planned, pending, frame, (before e planned).2 here⟩⟩
    · intro x hx dueX y hy dueY
      obtain ⟨-, -, here⟩ := (due x).1 dueX
      obtain ⟨-, -, here'⟩ := (due y).1 dueY
      have positions := CyclePos.cycle.inj (here.symm.trans here')
      have startX := fits.start_le hx
      have startY := fits.start_le hy
      exact laidOut_unique fits.1 hx hy (.inl (by omega))

theorem State.startingTone_due {x : PlannedItem} :
    (decide (x.state = .pending) && !x.item.kind.isFrame && decide (s.channel.pos = .cycle x.start) &&
        decide (s.tx.tone.map (·.start) ≠ some x.start)) = true ↔
      x.state = .pending ∧ (∃ g, x.item.kind = .toneCall g) ∧ s.channel.pos = .cycle x.start ∧
        ∀ tone, s.tx.tone = some tone → tone.start ≠ x.start := by
  have tone : x.item.kind.isFrame = false ↔ ∃ g, x.item.kind = .toneCall g := by
    rw [← Bool.not_eq_true, ItemKind.isFrame_iff]
    simp
  simp only [Bool.and_eq_true, Bool.not_eq_true', decide_eq_true_eq, tone, ne_eq, Option.map_eq_some_iff, not_exists, not_and,
    and_assoc]

theorem State.startingTone_iff (fits : s.cyclePlanFits) : s.startingTone = some e ↔ e ∈ s.channel.plan ∧ e.state = .pending ∧
    (∃ g, e.item.kind = .toneCall g) ∧ s.channel.pos = .cycle e.start ∧
      ∀ tone, s.tx.tone = some tone → tone.start ≠ e.start := by
  unfold State.startingTone
  rw [find_eq_some_iff_unique, State.startingTone_due]
  intro x hx dueX y hy dueY
  obtain ⟨-, -, here, -⟩ := State.startingTone_due.1 dueX
  obtain ⟨-, -, here', -⟩ := State.startingTone_due.1 dueY
  exact laidOut_unique fits.1 hx hy (.inl (CyclePos.cycle.inj (here.symm.trans here')))

/-! ### The assembly of a frame (R134, R136 to R139) -/

/-- The four tail zeros leave the encoder register at zero (R136, R137). -/
theorem encoder_after_tail (data : List Bool) : (encoderInput data).foldl shiftIn 0 = 0 := by
  have tail : ∀ reg : BitVec 4, (zeros 4).foldl shiftIn reg = 0 := by decide
  rw [encoderInput, List.foldl_append, tail]

/-- An alert goes out at the rate of its item, a Stand-down and a Closing at 1/2 (R46). -/
theorem ItemKind.frameRate_eq {x : ItemKind} {rate : CodeRate}
    (rated : (∃ g, x = .groupAlert g rate) ∨ (∃ m, x = .memberAlert m rate) ∨ (x = .standDown ∨ x = .closing) ∧ rate = .half) :
    x.frameRate = rate ∧ x.isFrame = true := by
  rcases rated with ⟨g, rfl⟩ | ⟨m, rfl⟩ | ⟨rfl | rfl, rfl⟩ <;> exact ⟨rfl, rfl⟩

theorem exec_frameAssembly (clocked : s.clocked = true) (due : s.assembling = some e) :
    exec .frameAssembly s = .next (s.assembleFrame e.item) := by
  show execFrameAssembly s = _
  simp only [execFrameAssembly, clocked, due, if_true]

theorem State.assembleFrame_eq (s : State) {i : TxItem} {rate : CodeRate} (rated : i.kind.frameRate = rate)
    (frame : i.kind.isFrame = true) : s.assembleFrame i = { s with tx := { s.tx with
      assembled := some (frameSync ++ codedSymbols (s.frameData i) rate)
      crc := crc16 (s.frameData i)
      encoder := 0
      puncture := if rate = .threeQuarters then 1 else 0 } } := by
  have punctures : (encoderInput (s.frameData i)).length % rate.period = if rate = .threeQuarters then 1 else 0 := by
    rw [length_encoderInput, length_frameData s frame]
    cases rate <;> rfl
  simp only [State.assembleFrame, Transmit.encoded, rated, encoder_after_tail, punctures]

/-! ### The start of a tone call (R145, R146) -/

theorem exec_toneCallStart (clocked : s.clocked = true) (due : s.startingTone = some e) :
    exec .toneCallStart s = .next (s.startTone e) := by
  show execToneCallStart s = _
  simp only [execToneCallStart, clocked, due, if_true]

theorem State.startTone_eq {g : ToneGroup} (s : State) (kind : e.item.kind = .toneCall g) :
    s.startTone e = { s with tx := { s.tx with
      tone := some ⟨e.start, toneIncrement s.tx.frequencies[s.tx.pairs[g].indexA],
        toneIncrement s.tx.frequencies[s.tx.pairs[g].indexB]⟩ } } := by
  simp only [State.startTone, kind]
  rfl

/-! ### The data bits of a frame (R134, R187) -/

/-- The bits that an alert takes from the callout that its number names (R134, R187). -/
def Callout.alertFields (c : Callout) : List Bool :=
  bitsOf c.priority ++ bitsOf (BitVec.ofNat 3 c.step.val) ++ bitsOf c.cls ++ bitsOf c.location

theorem State.alertData_eq {n : Half} {b : List Bool} (kind : BitVec 4) (address : BitVec 20)
    (source : s.lookup n = none ∧ b = zeros 32 ∨ ∃ k c, s.lookup n = some (k, c) ∧ b = c.alertFields) :
    s.alertData kind address n = bitsOf kind ++ bitsOf address ++ bitsOf n ++ b ++ bitsOf s.channel.station := by
  rcases source with ⟨none, rfl⟩ | ⟨k, c, named, rfl⟩
  · have blank : bitsOf (0 : BitVec 3) ++ bitsOf (0 : BitVec 3) ++ bitsOf (0 : Byte) ++ bitsOf (0 : BitVec 18) = zeros 32 := rfl
    simp only [State.alertData, none, alertBits, ← blank, List.append_assoc]
  · simp only [State.alertData, named, alertBits, Callout.alertFields, List.append_assoc]

/-- The address of a Member alert: that of an in-use Digital record, and 0 otherwise (R134). -/
theorem State.alertAddress_eq {m : MemberIdx} {a : BitVec 20}
    (source : (s.member m).inUse = true ∧ (∃ groups, (s.member m).pager = .digital a groups) ∨
      ((s.member m).inUse = false ∨ ∀ b groups, (s.member m).pager ≠ .digital b groups) ∧ a = 0) : s.alertAddress m = a := by
  unfold State.alertAddress Member.address
  rcases source with ⟨used, groups, digital⟩ | ⟨unused | other, rfl⟩
  · simp only [digital, used, if_true, Option.getD_some]
  · split
    · rw [unused]
      rfl
    · rfl
  · split
    · exact absurd (by assumption) (other _ _)
    · rfl

/-- Settles O51: when a frame and a tone call are due, what each leaves, and the data bits kind by kind. -/
theorem framesAndTonesArePrepared : Obligations.FramesAndTonesArePrepared := by
  refine ⟨fun s e fits => ⟨State.assembling_iff fits, State.startingTone_iff fits⟩, fun s e clocked due rate rated => ?_,
    fun s e clocked due => ?_, fun s n serial => ?_⟩
  · obtain ⟨rate, frame⟩ := ItemKind.frameRate_eq rated
    rw [exec_frameAssembly clocked due, s.assembleFrame_eq rate frame]
  · have found := List.find?_some (show List.find? _ s.channel.plan = some e from due)
    obtain ⟨-, ⟨g, kind⟩, -⟩ := State.startingTone_due.1 found
    exact ⟨g, kind, by rw [exec_toneCallStart clocked due, s.startTone_eq kind]⟩
  · refine ⟨fun b source => ⟨fun g r => State.alertData_eq _ _ source, fun m r a address => ?_⟩, rfl, rfl⟩
    have data : s.frameData ⟨.memberAlert m r, n, serial⟩ = s.alertData 3#4 (s.alertAddress m) n := rfl
    rw [data, State.alertAddress_eq address, State.alertData_eq _ _ source]

end Sys2Proof.Machine
end

section
/-! PROOF. What a return, a stop of the channel and their notices read of the state (R58, R110, R123, R126). -/

namespace Sys2Proof.Machine

open Sys2Proof

variable {s t u : State}

/-! ### Returns (R126) -/

theorem State.lookup_congr (slots : t.slots = s.slots) (n : Half) : t.lookup n = s.lookup n := by
  simp only [State.lookup, State.findSlot, slots]

theorem State.returnItem_slots_congr (slots : t.slots = s.slots) (i : TxItem) :
    (State.returnItem i t).slots = (State.returnItem i s).slots := by
  unfold State.returnItem
  rw [State.lookup_congr slots]
  split
  · split
    · exact congrArg (fun v : Vector (Option Callout) 8 => v.set _ _) slots
    · exact slots
  · exact slots

/-- A return reads the slots and the cycle plan alone, and writes them alone (R123, R126). -/
theorem State.returnUnsent_congr (slots : t.slots = s.slots) (plan : t.channel.plan = s.channel.plan) :
    t.returnUnsent = { t with
      slots := s.returnUnsent.slots, channel := { t.channel with plan := s.returnUnsent.channel.plan } } := by
  have returned : ∀ l : List PlannedItem, (l.foldr (fun e v => State.returnItem e.item v) t).slots =
      (l.foldr (fun e v => State.returnItem e.item v) s).slots := by
    intro l
    induction l with
    | nil => exact slots
    | cons e rest ih => exact State.returnItem_slots_congr ih e.item
  have sameSlots : t.returnUnsent.slots = s.returnUnsent.slots := by
    have unsent : t.unsent = s.unsent := congrArg (List.filter PlannedItem.unsent) plan
    unfold State.returnUnsent
    rw [unsent]
    exact returned s.unsent
  have samePlan : t.returnUnsent.channel.plan = s.returnUnsent.channel.plan := by
    rw [t.returnUnsent_frame.2, s.returnUnsent_frame.2, plan]
  have channel : t.returnUnsent.channel = { t.channel with plan := t.returnUnsent.channel.plan } := t.returnUnsent_frame.2
  have frame := t.returnUnsent_frame.1
  rw [← sameSlots, ← samePlan, ← channel]
  generalize t.returnUnsent = v at frame
  rw [← frame]

end Sys2Proof.Machine
end

section
/-! PROOF. The stop of the channel: what it leaves, and its notices in slot order (R58, R107, R110). -/

namespace Sys2Proof.Machine

open Sys2Proof

variable {s t u v w : State} {k : SlotIdx}

/-! ### Who is told (R58) -/

/-- Number and origins of the callout of a slot, if it stands down: what its Freed notice reads of it (R57, R58). -/
def Callout.standing (c : Callout) : Option (Half × PortSet) :=
  match c.lifecycle with
  | .standingDown _ => some (c.number, c.origins)
  | _ => none

def State.standsAt (s : State) (k : SlotIdx) : Option (Half × PortSet) := (s.slots[k]).bind Callout.standing

/-- The Freed notice of the callout that stands down in a slot of `s`, raised after the notices of `u` (R58). -/
def State.tellStanding (s u : State) (k : SlotIdx) : State :=
  (s.standsAt k).elim u fun x => u.raiseNotice (x.2.union s.stations) ⟨.freed, x.1, 255, 3, 0, 0, 0⟩

theorem State.tellFreed_eq (s u : State) : s.tellFreed u = (List.finRange 8).foldl s.tellStanding u := by
  unfold State.tellFreed
  congr 1
  funext u k
  unfold State.tellStanding State.standsAt Callout.standing
  cases s.slots[k] with
  | none => rfl
  | some c =>
    rw [Option.bind_some]
    dsimp only
    cases c.lifecycle <;> rfl

/-- The notice reads the standing callout and the classes of the ports; it is offered to what stands in the ports. -/
theorem State.tellStanding_ports_congr (ports : v.ports = w.ports) (sup : v.sup = w.sup) (stations : t.stations = s.stations)
    (stands : t.standsAt k = s.standsAt k) : (t.tellStanding v k).ports = (s.tellStanding w k).ports := by
  unfold State.tellStanding
  rw [stands, stations]
  cases s.standsAt k with
  | none => exact ports
  | some x => exact raiseNotice_ports_congr ports sup _ _

theorem State.tellStanding_noticed (s u : State) (k : SlotIdx) : u.noticed (s.tellStanding u k) := by
  unfold State.tellStanding
  cases s.standsAt k with
  | none => exact u.noticed_refl
  | some x => exact u.noticed_raiseNotice _ _

theorem State.noticed.stations (told : s.noticed t) : t.stations = s.stations := by
  have cls : ∀ p, (t.port p).cls = (s.port p).cls := fun p => (told.2 p).1
  have a := cls .a
  have b := cls .b
  have c := cls .c
  simp only [State.port, Ports.get] at a b c
  simp only [State.stations, a, b, c]

theorem State.stopSlot_ports (s : State) (k : SlotIdx) : (s.stopSlot k).ports = (s.tellStanding s k).ports := by
  unfold State.stopSlot State.tellStanding State.standsAt Callout.standing
  cases s.slots[k] with
  | none => rfl
  | some c =>
    rw [Option.bind_some]
    dsimp only
    cases c.lifecycle <;> rfl

/-- The slots stopped tell of the callouts that stood down, in slot order (R58). -/
theorem State.stopSlots_ports (ports : v.ports = w.ports) (sup : v.sup = w.sup) (stations : v.stations = s.stations)
    (stands : ∀ k, v.standsAt k = s.standsAt k) : v.stopSlots.ports = (s.tellFreed w).ports := by
  have each : ∀ (l : List SlotIdx) (v w : State), l.Nodup → v.ports = w.ports → v.sup = w.sup → v.stations = s.stations →
      (∀ k ∈ l, v.standsAt k = s.standsAt k) → (l.foldl State.stopSlot v).ports = (l.foldl s.tellStanding w).ports := by
    intro l
    induction l with
    | nil => exact fun _ _ _ ports _ _ _ => ports
    | cons k rest ih =>
      intro v w once ports sup stations stands
      rw [List.nodup_cons] at once
      have told : (v.stopSlot k).ports = (s.tellStanding w k).ports :=
        (v.stopSlot_ports k).trans (State.tellStanding_ports_congr ports sup stations (stands k List.mem_cons_self))
      obtain ⟨u, noticed, stopped⟩ := v.stopSlot_effect k
      have kept : (v.stopSlot k).sup = (s.tellStanding w k).sup := by
        rw [stopped, (State.noticed_clock (s.tellStanding_noticed w k)).1, ← sup]
        exact (State.noticed_clock noticed).1
      have classes : (v.stopSlot k).stations = s.stations := by
        rw [stopped, ← stations]
        exact noticed.stations
      refine ih _ _ once.2 told kept classes fun j hj => ?_
      have other : j ≠ k := fun same => once.1 (same ▸ hj)
      rw [← stands j (List.mem_cons_of_mem _ hj)]
      unfold State.standsAt
      rw [stopped, State.slots_setSlot_other _ _ other, noticed.sameTables.slots]
  rw [State.tellFreed_eq]
  exact each allSlots v w (List.nodup_finRange 8) ports sup stations fun k _ => stands k

/-! ### The stop (R107, R110) -/

/-- The channel Stopped: its PTT released, its plan kept, and the slots as R58 leaves them. -/
theorem State.stopChannel_frame (s : State) (why : ChannelCause) :
    (s.stopChannel why).channel = { s.channel with state := .stopped, pos := .absent, keyed := none } ∧
      (∀ k : SlotIdx, (s.stopChannel why).slots[k] = (s.slots[k]).bind Callout.afterStop) ∧
      (s.stopChannel why).tx = { s.tx with frame := [], assembled := none, tone := none, sample := 2048 } ∧
      { s.stopChannel why with channel := s.channel, slots := s.slots, tx := s.tx, ports := s.ports } = s := by
  have after : stoppedSlot = fun x => x.bind Callout.afterStop := by
    funext x
    cases x with
    | none => rfl
    | some c =>
      unfold stoppedSlot Callout.afterStop
      cases c.lifecycle <;> rfl
  obtain ⟨told, slots⟩ := State.stopSlots_effect
    ({ s.unkey with channel := { s.unkey.channel with pos := .absent } }.changeChannel .stopped why)
  have frame := told.1
  simp only [after] at slots
  unfold State.stopChannel
  generalize State.stopSlots _ = t at frame slots
  exact ⟨congrArg State.channel frame, slots, congrArg State.tx frame,
    congrArg (fun u : State => { u with channel := s.channel, tx := s.tx, slots := s.slots, ports := s.ports }) frame⟩

/-- A stop of the channel tells of the new state, and then of the callouts that stood down (R58, R110). -/
theorem State.stopChannel_ports (s : State) (why : ChannelCause) (ports : s.ports = w.ports) (sup : s.sup = w.sup)
    (stations : s.stations = t.stations) (stands : ∀ k, s.standsAt k = t.standsAt k) :
    (s.stopChannel why).ports = (t.tellFreed (w.raiseNotice ⟨true, true, true⟩
      (channelStateNotice .stopped s.channel.state why s.channel.cycle))).ports := by
  refine State.stopSlots_ports (raiseNotice_ports_congr ports sup _ _) sup ?_ stands
  rw [← stations]
  exact State.stations_raiseNotice _ _ _

end Sys2Proof.Machine
end

section
/-! PROOF. The loss and the restore of the reference clock (R58, R129, R130, R162, R184 to R186). -/

namespace Sys2Proof.Machine

open Sys2Proof

variable {s t : State}

/-! ### A return leaves who stands down (R126) -/

theorem Callout.standing_putBack (c : Callout) (i : TxItem) : (c.putBack i).standing = c.standing := by
  unfold Callout.putBack Callout.withProgress Callout.standing
  cases lifecycle : c.lifecycle <;> simp only [Callout.withRun]

theorem State.standsAt_returnItem (s : State) (i : TxItem) (k : SlotIdx) :
    (State.returnItem i s).standsAt k = s.standsAt k := by
  rcases s.returnItem_effect i with same | ⟨j, c, named, -, back⟩
  · rw [same]
  · have held := (State.lookup_some named).1
    unfold State.standsAt
    rw [back, State.slots_setSlot]
    split
    · rename_i here
      subst here
      rw [held]
      exact c.standing_putBack i
    · rfl

theorem State.standsAt_returnUnsent (s : State) (k : SlotIdx) : s.returnUnsent.standsAt k = s.standsAt k := by
  have each : ∀ l : List PlannedItem, (l.foldr (fun e v => State.returnItem e.item v) s).standsAt k = s.standsAt k := by
    intro l
    induction l with
    | nil => rfl
    | cons e rest ih => exact (State.standsAt_returnItem _ _ k).trans ih
  exact each s.unsent

/-! ### The channel's reaction to a loss (R129, R162) -/

/-- The items returned, the PTT released, the cycle left and the receiver at rest (R129, R162). -/
def State.cutOff (s : State) : State :=
  { s.returnUnsent.unkey with channel := { s.returnUnsent.unkey.channel with pos := .absent }, rx := .afterReset }

theorem State.loseClock_running (running : s.channel.state = .running) :
    s.loseClock = s.cutOff.changeChannel .suspended .clockLost := by
  simp only [State.loseClock, running]
  rfl

theorem State.loseClock_stopping (stopping : s.channel.state = .stopping) : s.loseClock = s.cutOff.stopChannel .clockLost := by
  simp only [State.loseClock, stopping]
  rfl

theorem State.loseClock_idle (idle : s.channel.state = .stopped ∨ s.channel.state = .suspended) : s.loseClock = s := by
  rcases idle with idle | idle <;> simp [State.loseClock, idle, ChannelState.cycling]

/-- The reaction reads slots and channel alone of what the loss has changed before. -/
theorem State.cutOff_eq (slots : t.slots = s.slots) (channel : t.channel = s.channel) : t.cutOff = { t with
    slots := s.returnUnsent.slots
    channel := { s.returnUnsent.channel with pos := .absent, keyed := none }
    tx := { t.tx with frame := [], assembled := none, tone := none, sample := 2048 }
    rx := ⟨Vector.replicate 56 .unfilled, .unsampled, 0⟩ } := by
  have plan : t.channel.plan = s.channel.plan := by rw [channel]
  unfold State.cutOff
  rw [State.returnUnsent_congr slots plan, channel, s.returnUnsent_frame.2]
  rfl

/-! ### The commands -/

/-- The reference taken as lost, before the channel reacts (R184). -/
def State.fallenBack (s : State) : State :=
  { s with
    sup := { s.sup with clock := .internal, restore := .measuring 0, fallbackTicks := 0 }
    tx := { s.tx with dacWord := none } }.raiseNotice ⟨true, true, true⟩
      ⟨.clockFallback, 0, 255, s.channel.state.code, s.channel.cycle.extractLsb' 8 8, s.channel.cycle.extractLsb' 0 8, 0⟩

/-- The reference back, before the channel reacts (R185). -/
def State.restoredClock (s : State) : State :=
  { s with
    sup := { s.sup with clock := .reference, restore := .idle }
    tx := { s.tx with restoreWord := true } }.raiseNotice ⟨true, true, true⟩
      ⟨.clockRestored, 0, 255, (BitVec.ofNat 16 s.sup.fallbackTicks).extractLsb' 8 8,
        (BitVec.ofNat 16 s.sup.fallbackTicks).extractLsb' 0 8, s.channel.cycle.extractLsb' 8 8, s.channel.cycle.extractLsb' 0 8⟩

theorem exec_referenceLost (released : s.sup.held = false) (reference : s.sup.clock = .reference) :
    exec .referenceLost s = .next s.fallenBack.loseClock := by
  have clocked : s.clocked = true := by simp [State.clocked, released, reference]
  show execReferenceLost s = _
  rw [execReferenceLost, if_pos clocked]
  rfl

/-- A gap that comes after the restore is a loss (R186). -/
theorem exec_restoreGap_reference (released : s.sup.held = false) (reference : s.sup.clock = .reference) :
    exec .restoreGap s = .next s.fallenBack.loseClock := by
  show execRestoreGap s = _
  simp only [execRestoreGap, released, reference, Bool.false_eq_true, if_false, if_true]
  rfl

theorem exec_restoreGap_internal {n : Nat} (released : s.sup.held = false) (internal : s.sup.clock = .internal)
    (measuring : s.sup.restore = .measuring n) :
    exec .restoreGap s = .next { s with sup := { s.sup with restore := .measuring 0 } } := by
  show execRestoreGap s = _
  simp only [execRestoreGap, released, internal, measuring, Bool.false_eq_true, if_false, reduceCtorEq]

theorem exec_restored {n : Nat} (released : s.sup.held = false) (internal : s.sup.clock = .internal)
    (measuring : s.sup.restore = .measuring n) (second : 9830400 ≤ n) (pins : SitePins) :
    exec (.restored pins) s = .next (s.restoredClock.resumeChannel pins) := by
  have due : s.restoreDue = true := by
    simp only [State.restoreDue, measuring]
    exact decide_eq_true second
  have taken : (!s.sup.held && s.sup.clock = .internal && s.restoreDue) = true := by simp [released, internal, due]
  show execRestored pins s = _
  rw [execRestored, if_pos taken]
  rfl

theorem State.resumeChannel_other (other : s.channel.state ≠ .suspended) (pins : SitePins) : s.resumeChannel pins = s := by
  unfold State.resumeChannel
  split
  · exact absurd (by assumption) other
  · rfl

theorem State.resumeChannel_suspended (suspended : s.channel.state = .suspended) (pins : SitePins) :
    s.resumeChannel pins = (s.changeChannel .running .clockRestored).openCycle true pins := by
  simp only [State.resumeChannel, suspended]

/-- The notice of a change of channel state (R110, R190). -/
theorem State.changeChannel_eq {old : ChannelState} (before : s.channel.state = old) (new : ChannelState) (why : ChannelCause) :
    s.changeChannel new why = { s with channel := { s.channel with state := new } }.raiseNotice ⟨true, true, true⟩
      ⟨.channelState, 0, 255, new.code * 16 + old.code, why.code, s.channel.cycle.extractLsb' 8 8,
        s.channel.cycle.extractLsb' 0 8⟩ := by
  rw [← before]
  rfl

/-- Settles O60: the loss by the state of the channel, the gap, and the restore. -/
theorem clockLossAndRestoreMoveTheChannel : Obligations.ClockLossAndRestoreMoveTheChannel := by
  intro s released hiCycle loCycle every
  refine ⟨?_, fun n internal measuring => exec_restoreGap_internal released internal measuring,
    fun ⟨n, measuring, second⟩ internal pins => ?_⟩
  · intro reference lost rested
    have loss : exec .referenceLost s = .next lost.loseClock := exec_referenceLost released reference
    have cut := State.cutOff_eq (s := s) (t := lost) rfl rfl
    refine ⟨fun idle => ?_, fun running => ?_, fun stopping => ?_,
      (exec_restoreGap_reference released reference).trans loss.symm⟩
    · rw [loss, State.loseClock_idle (s := lost) idle]
    · refine ⟨_, loss, ?_⟩
      rw [State.loseClock_running (s := lost) running, cut]
      rw [State.changeChannel_eq (old := .running) (by rw [s.returnUnsent_frame.2]; exact running)]
      refine ⟨⟨rfl, rfl, rfl, rfl, rfl, rfl, rfl, rfl, rfl, rfl⟩, rfl, rfl, ?_⟩
      rw [s.returnUnsent_frame.2]
      exact raiseNotice_ports_congr rfl rfl _ _
    · refine ⟨_, loss, ?_⟩
      rw [State.loseClock_stopping (s := lost) stopping]
      obtain ⟨channel, slots, tx, frame⟩ := lost.cutOff.stopChannel_frame .clockLost
      have ports := lost.cutOff.stopChannel_ports (w := lost) (t := s) .clockLost
        (by rw [cut]) (by rw [cut]) (by rw [cut]; exact State.stations_raiseNotice _ _ _)
        (fun k => by rw [cut]; exact s.standsAt_returnUnsent k)
      have state : s.returnUnsent.channel.state = .stopping := by rw [s.returnUnsent_frame.2]; exact stopping
      have cycle : s.returnUnsent.channel.cycle = s.channel.cycle := by rw [s.returnUnsent_frame.2]
      generalize lost.cutOff.stopChannel .clockLost = t at channel slots tx frame ports
      rw [cut] at channel slots tx frame ports
      dsimp only at ports
      rw [state, cycle] at ports
      exact ⟨⟨(congrArg State.rx frame :), (congrArg State.sup frame :), tx, (congrArg State.roster frame :),
        (congrArg State.plans frame :), (congrArg State.handOffs frame :), (congrArg State.serialCounter frame :),
        (congrArg State.inputs frame :), (congrArg State.edgesRead frame :), (congrArg State.pending frame :)⟩,
        channel, ports, slots⟩
  · have back := exec_restored released internal measuring second pins
    refine ⟨fun other => ?_, fun suspended => ?_⟩
    · rw [back, State.resumeChannel_other (s := s.restoredClock) other]
      rfl
    · rw [back, State.resumeChannel_suspended (s := s.restoredClock) suspended,
        State.changeChannel_eq (s := s.restoredClock) suspended]
      rfl

end Sys2Proof.Machine
end

section
/-! PROOF. The plan point: the plan built, the site lines read, a site keyed or every item returned (R114, R118, R120, R121). -/

namespace Sys2Proof.Machine

open Sys2Proof

variable {s t : State}

/-! ### The plan (R114, R116, R117) -/

theorem State.waiting_congr (slots : t.slots = s.slots) : t.waiting = s.waiting := by
  simp only [State.waiting, slots]

/-- The plan is built from the slots alone. -/
theorem State.buildPlan_congr (slots : t.slots = s.slots) : t.buildPlan = { t with
    slots := s.buildPlan.slots, channel := { t.channel with plan := s.buildPlan.channel.plan } } := by
  have taken : ∀ (l : List Turn) (t s : State), t.slots = s.slots →
      (l.foldl (fun s t => s.setSlot t.slot (some t.left)) t).slots =
        (l.foldl (fun s t => s.setSlot t.slot (some t.left)) s).slots := by
    intro l
    induction l with
    | nil => exact fun _ _ same => same
    | cons turn rest ih =>
      exact fun t s same => ih _ _ (congrArg (fun v : Vector (Option Callout) 8 => v.set turn.slot (some turn.left)) same)
  have waiting := State.waiting_congr slots
  have sameSlots : t.buildPlan.slots = s.buildPlan.slots := by
    unfold State.buildPlan
    rw [waiting]
    exact taken _ t s slots
  have samePlan : t.buildPlan.channel.plan = s.buildPlan.channel.plan := by
    simp only [State.buildPlan, waiting]
  have frame := t.buildPlan_frame.1
  rw [← sameSlots, ← samePlan, ← t.buildPlan_frame.2]
  generalize t.buildPlan = v at frame
  rw [← frame]

theorem State.buildPlan_pending (s : State) : ∀ e ∈ s.buildPlan.channel.plan, e.unsent = true := by
  rw [State.buildPlan_plan]
  intro e planned
  simp only [PlannedItem.unsent, (layOut_items 240 _).2 e planned]

/-! ### The SITE sample (R120) -/

theorem readyOf_eq (pins : SitePins) (x : Site) : readyOf pins x = if x = .a then pins.rdyA else pins.rdyB := by
  cases x <;> rfl

theorem otherSite_eq (x : Site) : otherSite x = if x = .a then .b else .a := by
  cases x <;> rfl

/-- The notices of a selection are raised where it changes (R119, R124). -/
def State.selectTold (s : State) (site : Site) (why : SiteChangeCause) : State :=
  if site = s.channel.selected then s
  else s.raiseNotice .every (siteChangedNotice site s.channel.selected why s.channel.cycle)

theorem State.selectTold_congr (ports : t.ports = s.ports) (sup : t.sup = s.sup)
    (selected : t.channel.selected = s.channel.selected) (cycle : t.channel.cycle = s.channel.cycle) (site : Site)
    (why : SiteChangeCause) : (t.selectTold site why).ports = (s.selectTold site why).ports := by
  unfold State.selectTold
  rw [selected, cycle]
  split
  · exact ports
  · exact raiseNotice_ports_congr ports sup _ _

theorem State.select_eq (s : State) (site : Site) (why : SiteChangeCause) : s.select site why =
    { s with channel := { s.channel with selected := site }, ports := (s.selectTold site why).ports } := by
  unfold State.select State.selectTold
  split
  · rename_i same
    subst same
    rfl
  · rfl

/-- The site selected at a plan point: the level of SITE in Pin mode, and the one stored in Request mode (R120). -/
def State.siteChosen (s : State) (pins : SitePins) : Site :=
  if s.channel.mode = .pin then (if pins.site then .b else .a) else s.channel.selected

theorem State.sampleSite_eq (s : State) (pins : SitePins) : s.sampleSite pins = { s with
    channel := { s.channel with selected := s.siteChosen pins }
    ports := (s.selectTold (s.siteChosen pins) .pin).ports
    inputs := { s.inputs with site := if s.channel.mode = .pin then pins.site else s.inputs.site } } := by
  unfold State.sampleSite State.siteChosen
  cases mode : s.channel.mode
  case request => simp [State.selectTold]
  case pin =>
    dsimp only
    have told := State.selectTold_congr (s := s) (t := { s with inputs := { s.inputs with site := pins.site } })
      rfl rfl rfl rfl (if pins.site then .b else .a) .pin
    rw [State.select_eq, told]
    simp only [if_true]

/-! ### The keying decision (R121) -/

/-- The site that the ready inputs let key, if any (R121). -/
def State.siteKeyed (s : State) (pins : SitePins) : Option Site :=
  if readyOf pins s.channel.selected then some s.channel.selected
  else if readyOf pins (otherSite s.channel.selected) then some (otherSite s.channel.selected)
  else none

/-- The site selected after the decision: a failover moves it in Request mode alone (R121). -/
def State.siteAfter (s : State) (pins : SitePins) : Site :=
  if readyOf pins s.channel.selected = false ∧ readyOf pins (otherSite s.channel.selected) = true ∧ s.channel.mode = .request
  then otherSite s.channel.selected else s.channel.selected

/-- The notice of the decision (R124). -/
def State.keyingTold (s : State) (pins : SitePins) : State :=
  if readyOf pins s.channel.selected then s
  else if readyOf pins (otherSite s.channel.selected) then
    if s.channel.mode = .request then
      s.raiseNotice .every
        (siteChangedNotice (otherSite s.channel.selected) s.channel.selected .failover s.channel.cycle)
    else
      s.raiseNotice .every
        (siteFaultNotice s.channel.selected (some (otherSite s.channel.selected)) .selectedNotReady 0 s.channel.cycle)
  else s.raiseNotice .every (siteFaultNotice s.channel.selected none .neitherReady s.unsent.length s.channel.cycle)

theorem State.keyingTold_ports {u : State} {sel oth : Site} (ports : s.ports = u.ports) (sup : s.sup = u.sup)
    (pins : SitePins) (selected : s.channel.selected = sel) (other : otherSite sel = oth) : (s.keyingTold pins).ports =
      (if readyOf pins sel then u
      else if readyOf pins oth then
        (if s.channel.mode = .request then u.raiseNotice ⟨true, true, true⟩
          ⟨.siteChanged, 0, 255, siteCode oth * 16 + siteCode sel, 2, s.channel.cycle.extractLsb' 8 8,
            s.channel.cycle.extractLsb' 0 8⟩
        else u.raiseNotice ⟨true, true, true⟩
          ⟨.siteFault, 0, 255, siteCode sel * 64 + siteCode oth * 16, 0, s.channel.cycle.extractLsb' 8 8,
            s.channel.cycle.extractLsb' 0 8⟩)
      else u.raiseNotice ⟨true, true, true⟩
        ⟨.siteFault, 0, 255, siteCode sel * 64 + 33, byteOf s.unsent.length, s.channel.cycle.extractLsb' 8 8,
          s.channel.cycle.extractLsb' 0 8⟩).ports := by
  subst selected other
  have notReady (x y : Site) (c : Half) : siteFaultNotice x (some y) .selectedNotReady 0 c =
      ⟨.siteFault, 0, 255, siteCode x * 64 + siteCode y * 16, 0, c.extractLsb' 8 8, c.extractLsb' 0 8⟩ := by
    cases x <;> cases y <;> rfl
  have neither (x : Site) (n : Nat) (c : Half) : siteFaultNotice x none .neitherReady n c =
      ⟨.siteFault, 0, 255, siteCode x * 64 + 33, byteOf n, c.extractLsb' 8 8, c.extractLsb' 0 8⟩ := by
    cases x <;> rfl
  unfold State.keyingTold
  rw [notReady, neither]
  split
  · exact ports
  split
  · split <;> exact raiseNotice_ports_congr ports sup _ _
  · exact raiseNotice_ports_congr ports sup _ _

/-- A site keyed, or every item of the plan returned with none keyed (R121, R123). -/
def State.keyOrReturn (s : State) : Option Site → State
  | some x => s.key x
  | none => s.returnUnsent.unkey

theorem otherSite_ne (x : Site) : otherSite x ≠ x := by
  cases x <;> exact nofun

theorem State.keyingDecision_eq (s : State) (pins : SitePins) : s.keyingDecision pins =
    { s with channel := { s.channel with selected := s.siteAfter pins }, ports := (s.keyingTold pins).ports }.keyOrReturn
      (s.siteKeyed pins) := by
  unfold State.keyingDecision State.siteAfter State.keyingTold State.siteKeyed
  by_cases ready : readyOf pins s.channel.selected = true
  · simp [ready, State.keyOrReturn]
  rw [Bool.not_eq_true] at ready
  by_cases spare : readyOf pins (otherSite s.channel.selected) = true
  · cases mode : s.channel.mode
    case request =>
      simp only [ready, spare, State.select_eq, State.selectTold, if_neg (otherSite_ne _), State.keyOrReturn,
        Bool.false_eq_true, if_false, if_true, and_self]
    case pin =>
      simp only [ready, spare, State.keyOrReturn, Bool.false_eq_true, if_false, if_true, and_false, reduceCtorEq]
      rfl
  · rw [Bool.not_eq_true] at spare
    simp only [ready, spare, State.keyOrReturn, Bool.false_eq_true, if_false, false_and, and_false]
    generalize siteFaultNotice _ _ _ _ _ = notice
    have same := State.returnUnsent_congr (s := s) (t := { s with ports := (s.raiseNotice .every notice).ports }) rfl rfl
    have told := raiseNotice_ports_congr (t := s.returnUnsent.unkey) (u := s)
      (congrArg State.ports s.returnUnsent_frame.1 :) (congrArg State.sup s.returnUnsent_frame.1 :) .every notice
    have shape := State.returnUnsent_congr (s := s) (t := s) rfl rfl
    calc s.returnUnsent.unkey.raiseNotice .every notice
      _ = { s.returnUnsent.unkey with ports := (s.returnUnsent.unkey.raiseNotice .every notice).ports } := rfl
      _ = { s.returnUnsent.unkey with ports := (s.raiseNotice .every notice).ports } := by rw [told]
      _ = _ := congrArg (fun v : State => { v.unkey with ports := (s.raiseNotice .every notice).ports }) shape
      _ = _ := (congrArg State.unkey same).symm

theorem State.key_tx (s : State) (x : Site) :
    let bits := beaconBits s.channel.cycle s.channel.station (wakeMask s.channel.plan) (otherFrames s.channel.plan) x
    (s.key x).tx = { s.tx with
      encoder := 0, puncture := 0, crc := crc16 bits, frame := beaconSync ++ codedSymbols bits .half, assembled := none
      tone := none, phase := 0 } := by
  simp only [State.key, Transmit.encoded, encoder_after_tail, CodeRate.period, Nat.mod_one]

/-! ### The cycle opened (R112, R114) -/

/-- The next cycle at symbol 0 of its G section, its plan built and the site lines read, with a selection and notices to be
given (R114). -/
def State.opened (s : State) (lone : Bool) (pins : SitePins) (selected : Site) (ports : Ports) : State := { s with
  slots := s.buildPlan.slots
  channel := { s.channel with
    cycle := s.channel.cycle + 1, pos := .lead lone 0, plan := s.buildPlan.channel.plan, selected := selected }
  ports := ports
  inputs := { s.inputs with
    rdyA := pins.rdyA, rdyB := pins.rdyB, site := if s.channel.mode = .pin then pins.site else s.inputs.site } }

/-- The notice of the SITE sample, with the number of the new cycle (R114, R124). -/
def State.siteTold (s : State) (pins : SitePins) : State :=
  if s.siteChosen pins = s.channel.selected then s
  else s.raiseNotice .every (siteChangedNotice (s.siteChosen pins) s.channel.selected .pin (s.channel.cycle + 1))

theorem State.siteTold_sup (s : State) (pins : SitePins) : (s.siteTold pins).sup = s.sup := by
  unfold State.siteTold
  split <;> rfl

theorem State.selectTold_siteTold (ports : t.ports = s.ports) (sup : t.sup = s.sup)
    (selected : t.channel.selected = s.channel.selected) (cycle : t.channel.cycle = s.channel.cycle + 1) (pins : SitePins) :
    (t.selectTold (s.siteChosen pins) .pin).ports = (s.siteTold pins).ports := by
  unfold State.selectTold State.siteTold
  rw [selected, cycle]
  split
  · exact ports
  · exact raiseNotice_ports_congr ports sup _ _

theorem State.openCycle_eq (s : State) (lone : Bool) (pins : SitePins) : s.openCycle lone pins =
    (s.opened lone pins (s.siteChosen pins) (s.siteTold pins).ports).keyingDecision pins := by
  have built := State.buildPlan_congr (s := s)
    (t := { s with channel := { s.channel with cycle := s.channel.cycle + 1, pos := .lead lone 0 } }) rfl
  have read := congrArg (fun v : State =>
    State.sampleSite { v with inputs := { v.inputs with rdyA := pins.rdyA, rdyB := pins.rdyB } } pins) built
  refine congrArg (fun v : State => v.keyingDecision pins) (read.trans ?_)
  rw [State.sampleSite_eq]
  refine congrArg (fun q : Ports => s.opened lone pins (s.siteChosen pins) q) ?_
  refine State.selectTold_siteTold (s := s) ?_ ?_ ?_ ?_ pins <;> rfl

/-- The cycle opened, before the keying decision. -/
def State.deciding (s : State) (lone : Bool) (pins : SitePins) : State :=
  s.opened lone pins (s.siteChosen pins) (s.siteTold pins).ports

theorem State.openCycle_decided (s : State) (lone : Bool) (pins : SitePins) : s.openCycle lone pins =
    (s.opened lone pins ((s.deciding lone pins).siteAfter pins) ((s.deciding lone pins).keyingTold pins).ports).keyOrReturn
      ((s.deciding lone pins).siteKeyed pins) :=
  (s.openCycle_eq lone pins).trans ((s.deciding lone pins).keyingDecision_eq pins)

/-- With no site keyed, every item of the plan is returned (R121, R123). -/
theorem State.opened_returned (s : State) (lone : Bool) (pins : SitePins) (selected : Site) (ports : Ports) :
    (s.opened lone pins selected ports).keyOrReturn none = { s.opened lone pins selected ports with
      slots := s.buildPlan.returnUnsent.slots
      channel := { (s.opened lone pins selected ports).channel with
        plan := s.buildPlan.channel.plan.map (fun e => { e with state := .returned }), keyed := none }
      tx := { s.tx with frame := [], assembled := none, tone := none, sample := 2048 } } := by
  have all : s.buildPlan.returnUnsent.channel.plan = s.buildPlan.channel.plan.map fun e => { e with state := .returned } := by
    rw [s.buildPlan.returnUnsent_frame.2]
    exact List.map_congr_left fun e planned => if_pos (s.buildPlan_pending e planned)
  have returned := State.returnUnsent_congr (s := s.buildPlan) (t := s.opened lone pins selected ports) rfl rfl
  rw [all] at returned
  exact congrArg State.unkey returned

/-- What a plan point leaves whichever way the keying decision goes (R112, R114, R121). -/
theorem State.openCycle_fields (s : State) (lone : Bool) (pins : SitePins) :
    let t := s.openCycle lone pins
    let d := s.deciding lone pins
    t.channel.cycle = s.channel.cycle + 1 ∧ t.channel.pos = .lead lone 0 ∧ t.channel.keyed = d.siteKeyed pins ∧
    t.channel.selected = d.siteAfter pins ∧
    { t.channel with
      cycle := s.channel.cycle, pos := s.channel.pos, plan := s.channel.plan, selected := s.channel.selected
      keyed := s.channel.keyed } = s.channel ∧
    t.inputs = d.inputs ∧ t.ports = (d.keyingTold pins).ports ∧
    { t with channel := s.channel, slots := s.slots, tx := s.tx, ports := s.ports, inputs := s.inputs } = s := by
  intro t d
  have decided : t = _ := s.openCycle_decided lone pins
  rw [decided]
  change (_ ∧ _ ∧ _ = d.siteKeyed pins ∧ _)
  cases d.siteKeyed pins with
  | none =>
    rw [State.opened_returned]
    exact ⟨rfl, rfl, rfl, rfl, rfl, rfl, rfl, rfl⟩
  | some x => exact ⟨rfl, rfl, rfl, rfl, rfl, rfl, rfl, rfl⟩

/-- The beacon of the new cycle in hand where a site is keyed (R118, R121, R135, R141). -/
theorem State.openCycle_keyed {lone : Bool} {pins : SitePins} {x : Site}
    (keyed : (s.openCycle lone pins).channel.keyed = some x) :
    let t := s.openCycle lone pins
    let planned := s.buildPlan.channel.plan
    let bits := beaconBits (s.channel.cycle + 1) s.channel.station (wakeMask planned) (otherFrames planned) x
    t.channel.plan = planned ∧ t.slots = s.buildPlan.slots ∧
    t.tx = { s.tx with
      encoder := 0, puncture := 0, crc := crc16 bits, frame := beaconSync ++ codedSymbols bits .half, assembled := none
      tone := none, phase := 0 } := by
  obtain ⟨-, -, decision, -⟩ := s.openCycle_fields lone pins
  intro t planned bits
  have decided : t = _ := s.openCycle_decided lone pins
  rw [decided, decision.symm.trans keyed]
  exact ⟨rfl, rfl, State.key_tx _ x⟩

theorem State.openCycle_returned {lone : Bool} {pins : SitePins} (keyed : (s.openCycle lone pins).channel.keyed = none) :
    let t := s.openCycle lone pins
    t.tx = { s.tx with frame := [], assembled := none, tone := none, sample := 2048 } ∧
    t.channel.plan = s.buildPlan.channel.plan.map (fun e => { e with state := .returned }) ∧
    t.slots = s.buildPlan.returnUnsent.slots := by
  obtain ⟨-, -, decision, -⟩ := s.openCycle_fields lone pins
  intro t
  have decided : t = _ := s.openCycle_decided lone pins
  rw [decided, decision.symm.trans keyed, State.opened_returned]
  exact ⟨rfl, rfl, rfl⟩

/-- The number of items that a Site fault reports: every item of the plan as built (R124). -/
theorem State.length_unsent_deciding (s : State) (lone : Bool) (pins : SitePins) :
    (s.deciding lone pins).unsent.length = s.buildPlan.channel.plan.length :=
  congrArg List.length (List.filter_eq_self.2 s.buildPlan_pending)

/-! ### When a plan point is due, and the stop that one makes in Stopping (R110, R112) -/

theorem State.planPointDue_iff : s.planPointDue = true ↔
    (s.channel.state = .running ∨ s.channel.state = .stopping) ∧ s.channel.pos = .cycle 23760 ∧ s.rx.carrier = .unsampled := by
  have cycling : s.channel.state.cycling = true ↔ s.channel.state = .running ∨ s.channel.state = .stopping := by
    cases s.channel.state <;> simp [ChannelState.cycling]
  have decided (there : s.channel.pos = .cycle 23760) : s.endingCell = none ↔ s.rx.carrier = .unsampled := by
    refine ⟨fun ended => ?_, fun unsampled => ?_⟩
    · by_contra sampled
      have ending : s.endingCell = some (95 : Fin 96) := endingCell_iff.2 ⟨sampled, there⟩
      rw [ended] at ending
      cases ending
    · refine Option.eq_none_iff_forall_ne_some.2 fun k ending => ?_
      exact (endingCell_iff.1 ending).1 unsampled
  unfold State.planPointDue
  rw [Bool.and_eq_true, Bool.and_eq_true, cycling, decide_eq_true_iff, Option.isNone_iff_eq_none, and_assoc]
  exact and_congr_right fun _ => and_congr_right decided

theorem exec_planPoint_running (clocked : s.clocked = true) (due : s.planPointDue = true)
    (running : s.channel.state = .running) (pins : SitePins) : exec (.planPoint pins) s = .next (s.openCycle false pins) := by
  show execPlanPoint pins s = _
  simp only [execPlanPoint, clocked, due, running, Bool.and_self, if_true]

theorem exec_planPoint_stopping (clocked : s.clocked = true) (due : s.planPointDue = true)
    (stopping : s.channel.state = .stopping) (pins : SitePins) :
    exec (.planPoint pins) s = .next (s.stopChannel .endOfCycle) := by
  show execPlanPoint pins s = _
  simp only [execPlanPoint, clocked, due, stopping, Bool.and_self, if_true]

/-- Settles O45: the cycle opened by the decision that the ready inputs give, and the plan point's moment and branches. -/
theorem planPointOpensTheNextCycle : Obligations.PlanPointOpensTheNextCycle := by
  refine ⟨fun s lone pins => ?_, fun s pins => ⟨State.planPointDue_iff, fun clocked due => ⟨fun running =>
    exec_planPoint_running clocked due running pins, fun stopping => ⟨_, exec_planPoint_stopping clocked due stopping pins, ?_⟩⟩⟩⟩
  · intro t chosen other ready planned
    have here : readyOf pins chosen = ready chosen := readyOf_eq _ _
    have there : readyOf pins (otherSite chosen) = ready other := by rw [otherSite_eq]; exact readyOf_eq _ _
    have spare : otherSite chosen = other := otherSite_eq chosen
    have keyed : (s.deciding lone pins).siteKeyed pins =
        if ready chosen then some chosen else if ready other then some other else none := by
      rw [← here, ← there, ← spare]
      rfl
    have selected : (s.deciding lone pins).siteAfter pins =
        if ready chosen = false ∧ ready other = true ∧ s.channel.mode = .request then other else chosen := by
      rw [← here, ← there, ← spare]
      rfl
    obtain ⟨cycle, pos, keyed', selected', channel, inputs, ports, frame⟩ := s.openCycle_fields lone pins
    refine ⟨cycle, pos, keyed'.trans keyed, selected'.trans selected, channel, fun x => State.openCycle_keyed,
      State.openCycle_returned, inputs, ports.trans ?_, frame⟩
    have notices := State.keyingTold_ports (s := s.deciding lone pins) (u := s.siteTold pins) rfl (s.siteTold_sup pins).symm
      pins (sel := chosen) rfl rfl
    rw [State.length_unsent_deciding, here, there, spare] at notices
    exact notices
  · obtain ⟨channel, slots, tx, frame⟩ := s.stopChannel_frame .endOfCycle
    have ports := s.stopChannel_ports (w := s) (t := s) .endOfCycle rfl rfl rfl fun _ => rfl
    rw [stopping] at ports
    exact ⟨channel, slots, tx, ports, frame⟩

end Sys2Proof.Machine
end

section
/-! PROOF. What leaves the responder lists and the engagements as they are (R64, R66): numbers, lifecycles and lists of the callouts
stand in their slots, no member's engagement is written, and the replies that come on their way answer Attending or Declined. -/

namespace Sys2Proof.Machine

open Sys2Proof

variable {s t u : State} {k : SlotIdx} {c d : Callout}

/-! ### Rolls -/

/-- What the laws of lists and engagements read of a callout: its number, the code of its lifecycle, and its responder list. -/
def Callout.roll (c : Callout) : Half × Byte × List Entry := (c.number, c.lifecycle.code, c.entries)

/-- The roll of the callout in a slot, if the slot is not Free. -/
def State.roll (s : State) (k : SlotIdx) : Option (Half × Byte × List Entry) := (s.slots[k]).map Callout.roll

theorem Lifecycle.code_active {l : Lifecycle} : l.code = 1 ↔ ∃ run, l = .active run := by
  cases l <;> simp [Lifecycle.code]

theorem Lifecycle.code_departed {l : Lifecycle} : l.code = 2 ↔ l = .departed := by
  cases l <;> simp [Lifecycle.code]

theorem Callout.isActive_iff_code : c.isActive = true ↔ c.lifecycle.code = 1 :=
  Callout.isActive_iff.trans Lifecycle.code_active.symm

/-- Callouts of one roll have the same number and list, and are Active or Departed together. -/
theorem Callout.of_roll (same : d.roll = c.roll) : d.number = c.number ∧ d.entries = c.entries ∧
    (d.isActive = true ↔ c.isActive = true) ∧ (d.lifecycle = .departed ↔ c.lifecycle = .departed) := by
  obtain ⟨number, code, entries⟩ := Prod.mk.injEq .. ▸ (Prod.mk.injEq .. ▸ same : _ ∧ _)
  refine ⟨number, entries, ?_, ?_⟩
  · rw [Callout.isActive_iff_code, Callout.isActive_iff_code, code]
  · rw [← Lifecycle.code_departed, ← Lifecycle.code_departed, code]

theorem Callout.roll_of (number : d.number = c.number) (lifecycle : d.lifecycle.code = c.lifecycle.code)
    (entries : d.entries = c.entries) : d.roll = c.roll := by
  rw [Callout.roll, Callout.roll, number, lifecycle, entries]

/-- Running its plan leaves an Active callout its roll (R41, R48). -/
theorem Callout.sameButRun.roll (same : c.sameButRun d) (before : c.isActive = true) (after : d.isActive = true) :
    d.roll = c.roll := by
  obtain ⟨number, -, -, -, -, -, -, -, entries, -⟩ := same
  exact Callout.roll_of number ((Callout.isActive_iff_code.1 after).trans (Callout.isActive_iff_code.1 before).symm) entries

theorem Callout.roll_withProgress (c : Callout) (p : Progress) : (c.withProgress p).roll = c.roll := by
  cases lifecycle : c.lifecycle with
  | active run =>
    rw [Callout.withProgress_active lifecycle]
    exact Callout.roll_of rfl (by rw [lifecycle]; rfl) rfl
  | departed | standingDown => rw [Callout.withProgress_inactive (by simp only [Callout.isActive, lifecycle])]

theorem Callout.roll_putBack (c : Callout) (i : TxItem) : (c.putBack i).roll = c.roll := Callout.roll_withProgress _ _

theorem Callout.roll_ticked (c : Callout) : c.ticked.roll = c.roll := by
  unfold Callout.ticked
  dsimp only
  split
  · rename_i lifecycle
    exact Callout.roll_of rfl (by rw [lifecycle]; rfl) rfl
  · rfl

theorem Turn.roll_left (t : Turn) : t.left.roll = t.callout.roll := by
  unfold Turn.left
  split
  · rfl
  · split
    · split
      · exact Callout.roll_withProgress _ _
      · rfl
    · rfl

theorem State.roll_advance (s : State) (c : Callout) : (s.advance c).roll = c.roll := by
  unfold State.advance
  split
  · rfl
  · split
    · split
      · exact Callout.roll_withProgress _ _
      · rfl
    · exact Callout.roll_withProgress _ _

theorem State.roll_of_slot (held : s.slots[k] = some c) : s.roll k = some c.roll := by rw [State.roll, held]; rfl

theorem State.roll_congr (slots : t.slots = s.slots) (k : SlotIdx) : t.roll k = s.roll k := by simp only [State.roll, slots]

theorem State.roll_setSlot (s : State) (k : SlotIdx) (x : Option Callout) (j : SlotIdx) :
    (s.setSlot k x).roll j = if j = k then x.map Callout.roll else s.roll j := by
  unfold State.roll
  rw [State.slots_setSlot]
  split <;> rfl

/-! ### Lists and engagements kept -/

/-- Every slot keeps its roll, but that a callout Standing down may leave its slot; engagements stay; and a reply on its way was so
before, or answers Attending or Declined. -/
structure State.listsKept (s t : State) : Prop where
  engagements : ∀ m, (t.member m).engagement = (s.member m).engagement
  replies : ∀ h ∈ t.handOffs, h ∈ s.handOffs ∨ h.answer = .attending ∨ h.answer = .declined
  rolls : ∀ k : SlotIdx, t.roll k = s.roll k ∨ t.roll k = none ∧ ∃ n l, s.roll k = some (n, 3, l)

theorem State.listsKept_of_eq (roster : t.roster = s.roster) (slots : t.slots = s.slots) (handOffs : t.handOffs = s.handOffs) :
    s.listsKept t :=
  ⟨fun m => by simp only [State.member, roster], fun _ on => .inl (handOffs ▸ on), fun k => .inl (State.roll_congr slots k)⟩

theorem State.listsKept_refl (s : State) : s.listsKept s := State.listsKept_of_eq rfl rfl rfl

theorem State.listsKept_trans (h : s.listsKept t) (g : t.listsKept u) : s.listsKept u := by
  refine ⟨fun m => (g.engagements m).trans (h.engagements m), fun x on => (g.replies x on).elim (h.replies x) .inr, fun k => ?_⟩
  rcases g.rolls k with kept | ⟨freed, standing⟩
  · rw [kept]
    exact h.rolls k
  · rcases h.rolls k with kept | ⟨gone, -⟩
    · exact .inr ⟨freed, kept ▸ standing⟩
    · obtain ⟨n, l, standing⟩ := standing
      rw [gone] at standing
      cases standing

theorem State.sameTables.listsKept (same : s.sameTables t) : s.listsKept t :=
  State.listsKept_of_eq same.roster same.slots same.handOffs

theorem State.noticed.listsKept (told : s.noticed t) : s.listsKept t := told.sameTables.listsKept

/-- A frame equation, which says that a state with other fields of `t` put back is `s`, carries lists and engagements over. -/
theorem State.listsKept_of_frame (frame : u = s) (roster : t.roster = u.roster) (slots : t.slots = u.slots)
    (handOffs : t.handOffs = u.handOffs) : s.listsKept t :=
  frame ▸ State.listsKept_of_eq roster slots handOffs

/-- Roster and replies on their way stay, and the slots keep their rolls. -/
theorem State.listsKept_of_rolls (roster : t.roster = s.roster) (handOffs : t.handOffs = s.handOffs)
    (rolls : ∀ k, t.roll k = s.roll k ∨ t.roll k = none ∧ ∃ n l, s.roll k = some (n, 3, l)) : s.listsKept t :=
  ⟨fun m => by simp only [State.member, roster], fun _ on => .inl (handOffs ▸ on), rolls⟩

/-- What every callout came from: one of its roll, in its slot. -/
theorem State.listsKept.before (kept : s.listsKept t) (held : t.slots[k] = some d) : ∃ c, s.slots[k] = some c ∧ d.roll = c.roll := by
  rcases kept.rolls k with same | ⟨freed, -⟩
  · rw [State.roll_of_slot held] at same
    obtain ⟨c, held, roll⟩ := Option.map_eq_some_iff.1 same.symm
    exact ⟨c, held, roll.symm⟩
  · rw [State.roll_of_slot held] at freed
    cases freed

/-- What became of a callout that is not Standing down: one of its roll, in its slot. -/
theorem State.listsKept.after (kept : s.listsKept t) (held : s.slots[k] = some c) (stays : c.lifecycle.code ≠ 3) :
    ∃ d, t.slots[k] = some d ∧ d.roll = c.roll := by
  rcases kept.rolls k with same | ⟨-, n, l, standing⟩
  · rw [State.roll_of_slot held] at same
    exact Option.map_eq_some_iff.1 same
  · rw [State.roll_of_slot held] at standing
    obtain ⟨-, code, -⟩ := Prod.mk.injEq .. ▸ Prod.mk.injEq .. ▸ Option.some.inj standing
    exact absurd code stays

/-! ### Slots and members -/

theorem State.listsKept_replace (held : s.slots[k] = some c) (same : d.roll = c.roll) : s.listsKept (s.setSlot k (some d)) := by
  refine State.listsKept_of_rolls rfl rfl fun j => .inl ?_
  rw [State.roll_setSlot]
  split
  · rename_i here
    rw [here, State.roll_of_slot held, ← same]
    rfl
  · rfl

theorem State.listsKept_free (held : s.slots[k] = some c) {sent : Nat} (standing : c.lifecycle = .standingDown sent)
    (why : FreedReason) : s.listsKept (s.free k c why) := by
  refine State.listsKept_trans (t := s.setSlot k none) (State.listsKept_of_rolls rfl rfl fun j => ?_)
    (State.noticed_raiseNotice _ _ _).listsKept
  rw [State.roll_setSlot]
  split
  · rename_i here
    refine .inr ⟨rfl, c.number, c.entries, ?_⟩
    rw [here, State.roll_of_slot held, Callout.roll, standing]
    rfl
  · exact .inl rfl

/-- A member record written again with its engagement. -/
theorem State.listsKept_setMember {m : MemberIdx} {x : Member} (same : x.engagement = (s.member m).engagement) :
    s.listsKept (s.setMember m x) := by
  refine ⟨fun j => ?_, fun _ on => .inl on, fun _ => .inl rfl⟩
  by_cases here : j = m
  · subst here
    rw [State.member_setMember_self]
    exact same
  · rw [State.member_setMember_other _ _ here]

/-! ### The engine's operations -/

theorem State.listsKept_merge (held : s.slots[k] = some c) (p : Port) (priority : BitVec 3) :
    s.listsKept (s.merge p k c priority) := by
  refine State.listsKept_trans ?_ (State.noticed_raiseNotice _ _ _).listsKept
  exact State.listsKept_replace held (Callout.roll_of rfl rfl rfl)

/-- Notices, then a callout replaced by one that has run its plan. -/
theorem State.listsKept_run (held : s.slots[k] = some c) (active : c.isActive = true) (told : s.noticed u) (same : c.sameButRun d)
    (active' : d.isActive = true) : s.listsKept (u.setSlot k (some d)) := by
  refine State.listsKept_trans told.listsKept (State.listsKept_replace ?_ (same.roll active active'))
  simpa only [told.sameTables.slots] using held

theorem State.listsKept_startStep (held : s.slots[k] = some c) (active : c.isActive = true) (i : Nat) :
    s.listsKept (s.startStep k i c) := by
  obtain ⟨u, d, told, started, same, active'⟩ := s.startStep_effect k i c
  exact started ▸ State.listsKept_run held active told same active'

theorem State.listsKept_expireHold (held : s.slots[k] = some c) (active : c.isActive = true) (run : ActiveRun) :
    s.listsKept (s.expireHold k c run) := by
  obtain ⟨u, d, told, expired, same, active'⟩ := s.expireHold_effect k c run
  exact expired ▸ State.listsKept_run held active told same active'

theorem State.listsKept_tick (s : State) : s.listsKept { s with slots := s.slots.map (Option.map Callout.ticked) } := by
  refine State.listsKept_of_rolls rfl rfl fun k => .inl ?_
  have ticked : (s.slots.map (Option.map Callout.ticked))[k.val] = Option.map Callout.ticked s.slots[k.val] :=
    Vector.getElem_map ..
  show Option.map Callout.roll (s.slots.map (Option.map Callout.ticked))[k.val] = Option.map Callout.roll s.slots[k.val]
  rw [ticked, Option.map_map]
  exact congrArg (fun f => Option.map f s.slots[k.val]) (funext Callout.roll_ticked)

/-- A completion frees at most a callout that stands down (R54). -/
theorem State.listsKept_matchCompletion (s : State) (i : TxItem) : s.listsKept (s.matchCompletion i) := by
  unfold State.matchCompletion
  split
  · exact s.listsKept_refl
  · rename_i k c named
    have held := (State.lookup_some named).1
    split
    · split
      · split
        · exact State.listsKept_replace held (s.roll_advance c)
        · exact s.listsKept_refl
      · rename_i standing
        split
        · split
          · exact State.listsKept_free held standing .stoodDown
          · exact State.listsKept_replace held (Callout.roll_of rfl (by rw [standing]; rfl) rfl)
        · exact s.listsKept_refl
      · exact s.listsKept_refl
    · exact s.listsKept_refl

theorem State.listsKept_complete (s : State) (e : PlannedItem) : s.listsKept (s.complete e) :=
  State.listsKept_trans (t := { s.markItem e .sent with tx := (s.markItem e .sent).tx.ended e })
    (State.listsKept_of_eq rfl rfl rfl) (State.listsKept_matchCompletion _ e.item)

/-! ### The channel's operations -/

theorem State.listsKept_returnUnsent (s : State) : s.listsKept s.returnUnsent := by
  have item : ∀ (u : State) (i : TxItem), u.listsKept (State.returnItem i u) := fun u i => by
    rcases u.returnItem_effect i with same | ⟨k, c, named, -, back⟩
    · rw [same]
      exact u.listsKept_refl
    · exact back ▸ State.listsKept_replace (State.lookup_some named).1 (c.roll_putBack i)
  have all : ∀ l : List PlannedItem, s.listsKept (l.foldr (fun e u => State.returnItem e.item u) s) := fun l => by
    induction l with
    | nil => exact s.listsKept_refl
    | cons e rest ih => exact State.listsKept_trans ih (item _ e.item)
  exact State.listsKept_trans (all s.unsent) (State.listsKept_of_eq rfl rfl rfl)

/-- The turns of a plan point leave the rolls (R116). -/
theorem State.roll_buildPlan (s : State) (k : SlotIdx) : s.buildPlan.roll k = s.roll k := by
  have turns : ∀ (l : List Turn) (u : State), (∀ t ∈ l, some t.left.roll = s.roll t.slot) → u.roll k = s.roll k →
      (l.foldl (fun v t => v.setSlot t.slot (some t.left)) u).roll k = s.roll k := by
    intro l
    induction l with
    | nil => exact fun _ _ kept => kept
    | cons t rest ih =>
      intro u same kept
      refine ih _ (fun x hx => same x (List.mem_cons_of_mem _ hx)) ?_
      rw [State.roll_setSlot]
      split
      · rename_i here
        exact here ▸ same t List.mem_cons_self
      · exact kept
  refine turns (planTurns Config.outboundBudget s.waiting) s (fun t taken => ?_) rfl
  obtain ⟨b, j, c, waits, rfl⟩ := mem_planTurns taken
  rw [Turn.roll_left]
  exact (State.roll_of_slot (State.mem_waiting.1 waits).1).symm

theorem State.listsKept_openCycle (s : State) (lone : Bool) (pins : SitePins) : s.listsKept (s.openCycle lone pins) := by
  obtain ⟨-, -, -, -, -, -, -, frame⟩ := s.openCycle_fields lone pins
  have roster := congrArg State.roster frame
  have handOffs := congrArg State.handOffs frame
  have roster' := congrArg State.roster s.buildPlan_frame.1
  have handOffs' := congrArg State.handOffs s.buildPlan_frame.1
  have built : s.listsKept s.buildPlan := State.listsKept_of_rolls roster' handOffs' fun k =>
    .inl (s.roll_buildPlan k)
  have slots : (s.openCycle lone pins).slots = s.buildPlan.slots ∨
      (s.openCycle lone pins).slots = s.buildPlan.returnUnsent.slots := by
    cases keyed : (s.openCycle lone pins).channel.keyed with
    | some x =>
      obtain ⟨-, slots, -⟩ := State.openCycle_keyed keyed
      exact .inl slots
    | none =>
      obtain ⟨-, -, slots⟩ := State.openCycle_returned keyed
      exact .inr slots
  have opened : ∀ u : State, s.listsKept u → (s.openCycle lone pins).slots = u.slots → s.listsKept (s.openCycle lone pins) := by
    exact fun u kept slots => State.listsKept_of_rolls roster handOffs fun k => State.roll_congr slots k ▸ kept.rolls k
  exact slots.elim (opened _ built) (opened _ (State.listsKept_trans built (State.listsKept_returnUnsent _)))

/-- A stop of the channel frees the callouts that stand down (R58). -/
theorem State.listsKept_stopChannel (s : State) (why : ChannelCause) : s.listsKept (s.stopChannel why) := by
  obtain ⟨-, slots, -, frame⟩ := s.stopChannel_frame why
  generalize s.stopChannel why = t at slots frame ⊢
  have roster := congrArg State.roster frame
  have handOffs := congrArg State.handOffs frame
  refine State.listsKept_of_rolls roster handOffs fun k => ?_
  unfold State.roll
  rw [slots k]
  cases s.slots[k] with
  | none => exact .inl rfl
  | some c =>
    cases lifecycle : c.lifecycle with
    | active | departed => exact .inl (by simp [Callout.afterStop, lifecycle, Callout.roll])
    | standingDown sent => exact .inr (by simp [Callout.afterStop, lifecycle, Callout.roll, Lifecycle.code])

theorem State.listsKept_loseClock (s : State) : s.listsKept s.loseClock := by
  have cut : s.listsKept s.cutOff := State.listsKept_trans s.listsKept_returnUnsent (State.listsKept_of_eq rfl rfl rfl)
  cases state : s.channel.state with
  | running =>
    rw [State.loseClock_running state]
    exact State.listsKept_trans cut (State.sameTables_changeChannel _ _ _).listsKept
  | stopping =>
    rw [State.loseClock_stopping state]
    exact State.listsKept_trans cut (State.listsKept_stopChannel _ _)
  | stopped =>
    rw [State.loseClock_idle (.inl state)]
    exact s.listsKept_refl
  | suspended =>
    rw [State.loseClock_idle (.inr state)]
    exact s.listsKept_refl

theorem State.listsKept_loseReference (s : State) : s.listsKept s.loseReference :=
  State.listsKept_trans (t := s.fallenBack) (State.listsKept_of_eq rfl rfl rfl) (State.listsKept_loseClock _)

/-! ### The receiver (R11, R14, R161) -/

theorem State.listsKept_handOn (s : State) (m : MemberIdx) {a : Answer} (eta : Option Nat) (tag : BitVec 6)
    (answers : a = .attending ∨ a = .declined) : s.listsKept (s.handOn m a eta tag) := by
  unfold State.handOn
  split
  · refine ⟨fun _ => rfl, fun h on => ?_, fun _ => .inl rfl⟩
    refine (List.mem_append.1 on).imp_right fun new => ?_
    rw [List.mem_singleton.1 new]
    exact answers
  · exact s.listsKept_refl

theorem State.listsKept_statusReply (s : State) (m : MemberIdx) (v : Availability) : s.listsKept (s.statusReply m v) := by
  unfold State.statusReply
  split
  · exact s.listsKept_refl
  · have stored : s.listsKept (s.setMember m { s.member m with availability := v, source := .pager }) :=
      State.listsKept_setMember rfl
    exact State.listsKept_trans stored (State.noticed_raiseNotice _ _ _).listsKept

theorem State.listsKept_settleCell (s : State) (m : MemberIdx) : s.listsKept (s.settleCell m) := by
  unfold State.settleCell
  split
  · exact s.listsKept_refl
  · exact State.listsKept_of_eq rfl rfl rfl
  · have heard : s.listsKept (s.setMember m { s.member m with lastHeard := some s.channel.cycle }) :=
      State.listsKept_setMember rfl
    unfold State.accept
    dsimp only
    split
    · exact State.listsKept_trans heard (State.listsKept_handOn _ m _ _ (.inl rfl))
    · exact State.listsKept_trans heard (State.listsKept_handOn _ m _ _ (.inr rfl))
    · exact State.listsKept_trans heard (State.listsKept_statusReply _ m .available)
    · exact State.listsKept_trans heard (State.listsKept_statusReply _ m .unavailable)

theorem State.listsKept_endCell (s : State) (m : MemberIdx) : s.listsKept (s.endCell m) := by
  obtain ⟨roster, handOffs⟩ := endCell_tables (s := s) (k := m)
  have slots := congrArg State.slots (endCell_frame (s := s) (k := m))
  exact State.listsKept_trans (s.listsKept_settleCell m) (State.listsKept_of_eq roster slots handOffs)

end Sys2Proof.Machine
end

section
/-! PROOF. What a command can do to the responder lists and the engagements, said once for all 47 (R64, R66): it keeps them, or it
carries out one of seven operations on them. -/

namespace Sys2Proof.Machine

open Sys2Proof

variable {s t u : State} {p : Port} {perm : Permission} {body : State → Taken}

/-- What a command does to lists and engagements, with what it has tested before. -/
inductive State.ListMove (s t : State) : Prop
  | kept (kept : s.listsKept t)
  | raised (p : Port) (k : SlotIdx) (c : Callout) (free : s.slots[k] = none) (active : c.isActive = true) (new : c.entries = [])
      (kept : (s.allocate p k c).listsKept t)
  | escalated (k : SlotIdx) (c : Callout) (i : PlanIdx) (held : s.slots[k] = some c) (active : c.isActive = true)
      (kept : (s.escalateTo k c i).listsKept t)
  | cancelled (k : SlotIdx) (c : Callout) (held : s.slots[k] = some c) (kept : (s.cancelCallout k c).listsKept t)
  | departed (k : SlotIdx) (c : Callout) (held : s.slots[k] = some c) (kept : (s.depart k c).listsKept t)
  | released (k : SlotIdx) (c : Callout) (held : s.slots[k] = some c) (departed : c.lifecycle = .departed)
      (kept : (s.releaseCallout k c).listsKept t)
  | replied (u : State) (k : SlotIdx) (c : Callout) (r : Reply) (before : s.listsKept u) (held : u.slots[k] = some c)
      (active : c.isActive = true) (answers : s.handOffsAnswer → r.answer ≠ .withdrawn)
      (kept : (u.handleReply k c r).1.listsKept t)
  | cleared (roster : ∀ m, t.member m = .cleared) (slots : ∀ k : SlotIdx, t.slots[k] = none)
      (handOffs : t.handOffs = s.handOffs ∨ t.handOffs = [])

theorem State.ListMove.refl (s : State) : s.ListMove s := .kept s.listsKept_refl

theorem State.ListMove.of_eq (roster : t.roster = s.roster) (slots : t.slots = s.slots) (handOffs : t.handOffs = s.handOffs) :
    s.ListMove t := .kept (State.listsKept_of_eq roster slots handOffs)

/-- What comes after without touching roster, slots or replies on their way leaves the move as it is. -/
theorem State.ListMove.andSame (h : s.ListMove t) (roster : u.roster = t.roster) (slots : u.slots = t.slots)
    (handOffs : u.handOffs = t.handOffs) : s.ListMove u := by
  have same : t.listsKept u := State.listsKept_of_eq roster slots handOffs
  cases h with
  | kept kept => exact .kept (State.listsKept_trans kept same)
  | raised p k c free active new kept => exact .raised p k c free active new (State.listsKept_trans kept same)
  | escalated k c i held active kept => exact .escalated k c i held active (State.listsKept_trans kept same)
  | cancelled k c held kept => exact .cancelled k c held (State.listsKept_trans kept same)
  | departed k c held kept => exact .departed k c held (State.listsKept_trans kept same)
  | released k c held departed kept => exact .released k c held departed (State.listsKept_trans kept same)
  | replied v k c r before held active answers kept =>
    exact .replied v k c r before held active answers (State.listsKept_trans kept same)
  | cleared members free replies =>
    refine .cleared (fun m => ?_) (fun k => ?_) (handOffs ▸ replies)
    · rw [← members m, State.member, State.member, roster]
    · simpa only [slots] using free k

/-- A request does what its own rule does, if it is taken (R165, R167). -/
theorem State.ListMove.takeRequest (h : s.ListMove (body s).1) : s.ListMove (s.takeRequest p perm body) :=
  State.takeRequest_cases (.refl s) (fun _ => .of_eq rfl rfl rfl) (h.andSame rfl rfl rfl)

/-! ### The callout engine's requests -/

theorem raiseBody_listMove (p : Port) (reference : Quad) (plan priority cls : Byte) (location : Three) (s : State) :
    s.ListMove (raiseBody p reference plan priority cls location s).1 := by
  unfold raiseBody
  split
  · exact .refl s
  · split
    · rename_i k c found
      split
      · exact .kept (State.listsKept_merge (State.findSlot_some found).1 p _)
      · exact .refl s
    · split
      · exact .refl s
      · split
        · exact .refl s
        · split
          · exact .refl s
          · rename_i k free
            exact .raised p k _ (State.freeSlot_some free) rfl rfl (State.listsKept_refl _)

theorem State.permitted_listMove {n : Half} {effect : SlotIdx → Callout → Taken}
    (h : ∀ k c, s.slots[k] = some c → s.ListMove (effect k c).1) : s.ListMove (s.permitted p n effect).1 := by
  unfold State.permitted
  split
  · exact .refl s
  · rename_i k c named
    split
    · exact h k c (State.lookup_some named).1
    · exact .refl s

theorem escalateBody_listMove (p : Port) (number : Half) (plan : Byte) (s : State) :
    s.ListMove (escalateBody p number plan s).1 := by
  refine State.permitted_listMove fun k c held => ?_
  split
  · rename_i active
    split
    · rename_i i _
      split
      · exact .escalated k c i held active (State.listsKept_refl _)
      · exact .refl s
    · exact .refl s
  · exact .refl s

theorem cancelBody_listMove (p : Port) (number : Half) (s : State) : s.ListMove (cancelBody p number s).1 := by
  refine State.permitted_listMove fun k c held => ?_
  split
  · exact .cancelled k c held (State.listsKept_refl _)
  · exact .refl s

theorem markDepartedBody_listMove (number : Half) (s : State) : s.ListMove (markDepartedBody number s).1 := by
  unfold markDepartedBody
  split
  · exact .refl s
  · rename_i k c named
    split
    · exact .departed k c (State.lookup_some named).1 (State.listsKept_refl _)
    · exact .refl s

theorem releaseBody_listMove (p : Port) (number : Half) (s : State) : s.ListMove (releaseBody p number s).1 := by
  refine State.permitted_listMove fun k c held => ?_
  split
  · rename_i departed
    exact .released k c held departed (State.listsKept_refl _)
  · exact .refl s

theorem execHoldExpiry_listMove (h : execHoldExpiry s = .next t) : s.ListMove t := by
  cases h
  split
  · exact .refl s
  · split
    · rename_i found
      split
      · rename_i run lifecycle
        exact .kept (State.listsKept_expireHold (State.findSlot_some found).1 (Callout.isActive_iff.2 ⟨run, lifecycle⟩) run)
      · exact .refl s
    · exact .refl s

/-! ### Replies -/

theorem readAnswer_ne_withdrawn {b : Byte} {a : Answer} (read : readAnswer b = some a) : a ≠ .withdrawn := by
  rintro rfl
  unfold readAnswer at read
  split at read
  · cases read
  · split at read <;> cases read

theorem recordReplyBody_listMove (p : Port) (member : Byte) (number : Half) (answer eta : Byte) (s : State) :
    s.ListMove (recordReplyBody p member number answer eta s).1 := by
  unfold recordReplyBody
  split
  · rename_i m a _ read
    split
    · split
      · exact .refl s
      · rename_i k c named
        split
        · exact .refl s
        · rename_i active
          split
          · exact .refl s
          · exact .replied s k c _ s.listsKept_refl (State.lookup_some named).1 (by simpa using active)
              (fun _ => readAnswer_ne_withdrawn read) (State.listsKept_refl _)
    · exact .refl s
  · exact .refl s

theorem markArrivedBody_listMove (p : Port) (member : Byte) (number : Half) (s : State) :
    s.ListMove (markArrivedBody p member number s).1 := by
  unfold markArrivedBody
  split
  · exact .refl s
  · split
    · split
      · exact .refl s
      · rename_i k c named
        split
        · exact .refl s
        · rename_i active
          split
          · exact .refl s
          · exact .replied s k c _ s.listsKept_refl (State.lookup_some named).1 (by simpa using active)
              (fun _ withdrawn => by cases withdrawn) (State.listsKept_refl _)
    · exact .refl s

theorem execCalloutReply_listMove (h : execCalloutReply s = .next t) : s.ListMove t := by
  cases h
  split
  · exact .refl s
  · split
    · exact .refl s
    · rename_i h rest waiting
      have dropped : s.listsKept { s with handOffs := rest } :=
        ⟨fun _ => rfl, fun x on => .inl (waiting ▸ List.mem_cons_of_mem _ on), fun _ => .inl rfl⟩
      unfold State.takeHandOff
      split
      · exact .kept dropped
      · rename_i k c named
        split
        · rename_i passes
          rw [Bool.and_eq_true, Bool.and_eq_true] at passes
          obtain ⟨⟨active, -⟩, -⟩ := passes
          refine .replied _ k c _ dropped (State.lookup_some named).1 active (fun answers withdrawn => ?_) (State.listsKept_refl _)
          have answer : h.answer = .withdrawn := withdrawn
          rcases answers h (waiting ▸ List.mem_cons_self) with is | is <;> rw [is] at answer <;> cases answer
        · exact .kept dropped

/-! ### The roster's, the plan table's and the channel's requests -/

theorem setAvailabilityBody_listMove (p : Port) (member availability : Byte) (s : State) :
    s.ListMove (setAvailabilityBody p member availability s).1 := by
  unfold setAvailabilityBody
  split
  · split
    · rename_i m v _ _ _
      have stored : s.listsKept (s.setMember m { s.member m with availability := v, source := .port p }) :=
        State.listsKept_setMember rfl
      exact (State.ListMove.kept stored).andSame rfl rfl rfl
    · exact .refl s
  · exact .refl s

theorem State.storeMember_listMove {m : MemberIdx} {x : Member} (same : x.engagement = (s.member m).engagement) :
    s.ListMove (s.storeMember m x) := by
  have stored : s.ListMove (s.setMember m x) := .kept (State.listsKept_setMember same)
  unfold State.storeMember
  split
  · exact stored
  · exact stored.andSame rfl rfl rfl

/-- A record is written only of a member that is Free, and leaves it so (R15, R16). -/
theorem writeMemberBody_listMove (p : Port) (member inUse kind : Byte) (address : Three) (toneGroup quals : Byte) (groups : Half)
    (eta availability : Byte) (s : State) :
    s.ListMove (writeMemberBody p member inUse kind address toneGroup quals groups eta availability s).1 := by
  unfold writeMemberBody
  split
  · exact .refl s
  · split
    · exact .refl s
    · rename_i free
      split
      · exact State.storeMember_listMove (not_not.1 free).symm
      · split
        · exact .refl s
        · split
          · split
            · exact .refl s
            · exact State.storeMember_listMove rfl
          · exact .refl s

theorem writePlanStepBody_listMove (plan step kind : Byte) (groups : Half) (count toneGroup condition : Byte) (hold : Half)
    (repeats rate : Byte) (s : State) :
    s.ListMove (writePlanStepBody plan step kind groups count toneGroup condition hold repeats rate s).1 := by
  unfold writePlanStepBody
  split
  · split
    · exact .refl s
    · split
      · exact .refl s
      · split <;> exact .of_eq rfl rfl rfl
  · exact .refl s

theorem writeTemplateBody_listMove (plan officer driver wearer total : Byte) (target : Half) (s : State) :
    s.ListMove (writeTemplateBody plan officer driver wearer total target s).1 := by
  unfold writeTemplateBody
  split
  · exact .refl s
  · split
    · exact .refl s
    · split <;> exact .of_eq rfl rfl rfl

theorem State.readNamed_listMove (s : State) (number : Half) (fields : SlotIdx → Callout → List Byte) :
    s.ListMove (s.readNamed number fields).1 := by
  unfold State.readNamed
  split <;> exact .refl s

theorem setChannelParametersBody_listMove (station limit threshold mode level : Byte) (s : State) :
    s.ListMove (setChannelParametersBody station limit threshold mode level s).1 := by
  unfold setChannelParametersBody
  split
  · exact .refl s
  · split
    · exact .refl s
    · split <;> exact .of_eq rfl rfl rfl

theorem startChannelBody_listMove (pins : SitePins) (s : State) : s.ListMove (startChannelBody pins s).1 := by
  unfold startChannelBody
  split
  · exact .refl s
  · split
    · exact .kept (State.listsKept_trans (s.sameTables_changeChannel .running .start).listsKept (State.listsKept_openCycle _ true pins))
    · exact .kept (s.sameTables_changeChannel .suspended .start).listsKept

theorem stopChannelBody_listMove (s : State) : s.ListMove (stopChannelBody s).1 := by
  unfold stopChannelBody done
  split
  · exact .kept (s.sameTables_changeChannel .stopping .stop).listsKept
  · dsimp only
    exact .kept (s.listsKept_stopChannel .stop)
  · exact .refl s

theorem selectSiteBody_listMove (site : Byte) (s : State) : s.ListMove (selectSiteBody site s).1 := by
  unfold selectSiteBody
  split
  · exact .refl s
  · exact .kept (s.sameTables_select _ .request).listsKept

/-! ### Events -/

theorem execOneSecondTick_listMove (h : execOneSecondTick s = .next t) : s.ListMove t := by
  cases h
  split
  · exact .refl s
  · exact (State.ListMove.kept s.listsKept_tick).andSame rfl rfl rfl

theorem execPlanPoint_listMove (pins : SitePins) (h : execPlanPoint pins s = .next t) : s.ListMove t := by
  cases h
  split
  · split
    · exact .kept (s.listsKept_openCycle false pins)
    · exact .kept (s.listsKept_stopChannel .endOfCycle)
  · exact .refl s

theorem execFrameAssembly_listMove (h : execFrameAssembly s = .next t) : s.ListMove t := by
  cases h
  split
  · split <;> exact .of_eq rfl rfl rfl
  · exact .refl s

theorem execToneCallStart_listMove (h : execToneCallStart s = .next t) : s.ListMove t := by
  cases h
  split
  · split
    · unfold State.startTone
      split <;> exact .of_eq rfl rfl rfl
    · exact .refl s
  · exact .refl s

theorem execCompletion_listMove (h : execCompletion s = .next t) : s.ListMove t := by
  cases h
  split
  · split
    · exact .kept (s.listsKept_complete _)
    · exact .refl s
  · exact .refl s

theorem execReadyLoss_listMove (site : Site) (h : execReadyLoss site s = .next t) : s.ListMove t := by
  cases h
  split
  · have unready : s.listsKept { s with inputs := s.inputs.unready site } := State.listsKept_of_eq rfl rfl rfl
    exact (State.ListMove.kept (State.listsKept_trans unready (State.listsKept_returnUnsent _))).andSame rfl rfl rfl
  · exact .refl s

theorem execCellEnd_listMove (h : execCellEnd s = .next t) : s.ListMove t := by
  cases h
  split
  · split
    · split
      · exact .refl s
      · exact .kept (s.listsKept_endCell _)
    · exact .refl s
  · exact .refl s

theorem execRestoreGap_listMove (h : execRestoreGap s = .next t) : s.ListMove t := by
  cases h
  split
  · exact .refl s
  · split
    · exact .kept s.listsKept_loseReference
    · split <;> exact .of_eq rfl rfl rfl

theorem execRestored_listMove (pins : SitePins) (h : execRestored pins s = .next t) : s.ListMove t := by
  cases h
  split
  · have back : s.listsKept s.restoredClock := State.listsKept_of_eq rfl rfl rfl
    show s.ListMove (s.restoredClock.resumeChannel pins)
    unfold State.resumeChannel
    split
    · have running := State.listsKept_trans back (State.sameTables_changeChannel _ .running .clockRestored).listsKept
      exact .kept (State.listsKept_trans running (State.listsKept_openCycle _ true pins))
    · exact .kept back
  · exact .refl s

/-! ### Every command -/

theorem exec_listMove (c : Instr) (h : exec c s = .next t) : s.ListMove t := by
  cases c with
  | raise => cases h; exact (raiseBody_listMove _ _ _ _ _ _ s).takeRequest
  | cancel => cases h; exact (cancelBody_listMove _ _ s).takeRequest
  | escalate => cases h; exact (escalateBody_listMove _ _ _ s).takeRequest
  | markDeparted => cases h; exact (markDepartedBody_listMove _ s).takeRequest
  | release => cases h; exact (releaseBody_listMove _ _ s).takeRequest
  | recordReply => cases h; exact (recordReplyBody_listMove _ _ _ _ _ s).takeRequest
  | markArrived => cases h; exact (markArrivedBody_listMove _ _ _ s).takeRequest
  | calloutReply => exact execCalloutReply_listMove h
  | setAvailability => cases h; exact (setAvailabilityBody_listMove _ _ _ s).takeRequest
  | writeMember => cases h; exact (writeMemberBody_listMove _ _ _ _ _ _ _ _ _ _ s).takeRequest
  | readMember =>
    cases h; refine .takeRequest ?_
    unfold readMemberBody; split <;> exact .refl s
  | writePlanStep => cases h; exact (writePlanStepBody_listMove _ _ _ _ _ _ _ _ _ _ s).takeRequest
  | writeTemplate => cases h; exact (writeTemplateBody_listMove _ _ _ _ _ _ s).takeRequest
  | readPlan =>
    cases h; refine .takeRequest ?_
    unfold readPlanBody; split <;> exact .refl s
  | writeToneFrequency =>
    cases h; refine .takeRequest ?_
    unfold writeToneFrequencyBody; split <;> exact .of_eq rfl rfl rfl
  | writeTonePair =>
    cases h; refine .takeRequest ?_
    unfold writeTonePairBody; split <;> exact .of_eq rfl rfl rfl
  | readToneTables | listCallouts | readStatus => cases h; exact .takeRequest (.refl s)
  | readCallout | readResponders | readCrew => cases h; exact .takeRequest (s.readNamed_listMove _ _)
  | readNotice =>
    cases h; refine .takeRequest ?_
    unfold readNoticeBody; dsimp only; split <;> exact .of_eq rfl rfl rfl
  | setChannelParameters => cases h; exact (setChannelParametersBody_listMove _ _ _ _ _ s).takeRequest
  | startChannel => cases h; exact (startChannelBody_listMove _ s).takeRequest
  | stopChannel => cases h; exact (stopChannelBody_listMove s).takeRequest
  | selectSite => cases h; exact (selectSiteBody_listMove _ s).takeRequest
  | unknownRequest | frameOpen | frameClose | keyedPeriodEnd | sampleTime => cases h; split <;> exact .of_eq rfl rfl rfl
  | reset => cases h; exact .of_eq rfl rfl rfl
  | oneSecondTick => exact execOneSecondTick_listMove h
  | holdExpiry => exact execHoldExpiry_listMove h
  | planPoint pins => exact execPlanPoint_listMove pins h
  | frameAssembly => exact execFrameAssembly_listMove h
  | toneCallStart => exact execToneCallStart_listMove h
  | completion => exact execCompletion_listMove h
  | readyLoss site => exact execReadyLoss_listMove site h
  | cellEnd => exact execCellEnd_listMove h
  | referenceLost =>
    cases h; split
    · exact .kept s.listsKept_loseReference
    · exact .refl s
  | restoreGap => exact execRestoreGap_listMove h
  | restored pins => exact execRestored_listMove pins h
  | resetEnd =>
    cases h; split
    · exact .cleared (fun _ => Vector.getElem_replicate _) (fun _ => Vector.getElem_replicate _) (.inr rfl)
    · exact .refl s
  | selfTestEnd =>
    cases h; split
    · exact .cleared (fun _ => Vector.getElem_replicate _) (fun _ => Vector.getElem_replicate _) (.inl rfl)
    · exact .refl s
  | symbolTime pins =>
    cases h; split
    · exact .kept (State.listsKept_of_frame (s.advanceSymbol_frame pins).1 rfl rfl rfl)
    · exact .refl s

/-- A step does what the command at the front does; a clock period keeps lists and engagements. -/
theorem step_listMove (h : step s = .next t) : ∃ u, s.listsKept u ∧ u.ListMove t := by
  unfold step at h
  split at h
  · cases h
    exact ⟨s, s.listsKept_refl, .kept (State.listsKept_of_frame s.clockPeriod_frame.1 rfl rfl rfl)⟩
  · rename_i c rest _
    exact ⟨{ s with pending := rest }, State.listsKept_of_eq rfl rfl rfl, exec_listMove c h⟩

end Sys2Proof.Machine
end

section
/-! PROOF. The responder lists stay bounded and without repeats (R64). -/

namespace Sys2Proof.Machine

open Sys2Proof

variable {s t u : State} {k : SlotIdx} {c d : Callout} {r : Reply} {a : Answer} {mark : Bool} {m : MemberIdx}

/-! ### The operations up to what keeps the lists -/

/-- The state of an allocation before step 0 starts (R40). -/
theorem State.listsKept_allocated (active : c.isActive = true) (p : Port) :
    (({ s with serialCounter := nextNumber c.number }.takeUpPlan c.plan).setSlot k (some c)).listsKept (s.allocate p k c) := by
  refine State.listsKept_trans (State.noticed_raiseNotice _ (s.interested c) (raisedNotice c p k)).listsKept ?_
  refine State.listsKept_startStep (c := c) ?_ active 0
  exact State.slots_setSlot_self _ k (some c)

/-- The plan table of an escalation (R51). -/
def State.planChanged (s : State) (c : Callout) (i : PlanIdx) : State :=
  if i = c.plan then s else (s.leavePlan c.plan).takeUpPlan i

theorem State.planChanged_frame (s : State) (c : Callout) (i : PlanIdx) : { s.planChanged c i with plans := s.plans } = s := by
  unfold State.planChanged
  split <;> rfl

/-- The callout of an escalation, its crew evaluated under the new plan (R51). -/
def State.escalated (s : State) (c : Callout) (i : PlanIdx) : Callout :=
  (s.planChanged c i).evaluated { c.bumped with queue := [], plan := i }

/-- An escalation writes the evaluated callout back; its step 0 starts after (R51). -/
theorem State.listsKept_escalated (active : c.isActive = true) (i : PlanIdx) :
    ((s.planChanged c i).settle k (s.escalated c i)).listsKept (s.escalateTo k c i) := by
  have told := State.noticed_raiseCrewStatus ((s.planChanged c i).settle k (s.escalated c i)) c.crew (s.escalated c i)
  refine State.listsKept_trans told.listsKept (State.listsKept_startStep (c := s.escalated c i) ?_ active 0)
  rw [told.sameTables.slots, ((s.planChanged c i).settle_frame k _).2]
  exact State.slots_setSlot_self (s.planChanged c i) k (some (s.escalated c i))

/-! ### One list -/

/-- A responder list holds at most 24 entries and no member twice (R64). -/
def boundedList (l : List Entry) : Prop := l.length ≤ 24 ∧ (l.map (·.member)).Nodup

theorem State.listsBounded.others (law : s.listsBounded) (k : SlotIdx) :
    s.otherCallouts k fun _ c => boundedList c.entries := State.everyCallout.others law k

/-- Members and length alone are bounded. -/
theorem boundedList_congr {l l' : List Entry} (members : l'.map (·.member) = l.map (·.member)) (h : boundedList l) :
    boundedList l' := by
  have length : l'.length = l.length := by simpa only [List.length_map] using congrArg List.length members
  exact ⟨length ▸ h.1, members ▸ h.2⟩

theorem withdrawEntry_members (l : List Entry) (m : MemberIdx) : (withdrawEntry l m).map (·.member) = l.map (·.member) := by
  rw [withdrawEntry, List.map_map]
  refine List.map_congr_left fun e _ => ?_
  rw [Function.comp_apply]
  split <;> rfl

theorem updateEntry_members (l : List Entry) (r : Reply) (a : Answer) (mark : Bool) (defaultEta t : Nat) :
    (updateEntry l r a mark defaultEta t).map (·.member) = l.map (·.member) := by
  rw [updateEntry, List.map_map]
  refine List.map_congr_left fun e _ => ?_
  rw [Function.comp_apply]
  split
  · rename_i here
    exact here.symm
  · rfl

/-- A new entry fits a list of fewer than 24 without its member. -/
theorem boundedList_append {l : List Entry} (h : boundedList l) (short : l.length < 24) (fresh : ∀ e ∈ l, e.member ≠ r.member)
    (a : Answer) (mark : Bool) (defaultEta t : Nat) : boundedList (appendEntry l r a mark defaultEta t) := by
  refine ⟨by rw [appendEntry, List.length_append, List.length_singleton]; exact short, ?_⟩
  rw [appendEntry, List.map_append, List.nodup_append]
  refine ⟨h.2, List.nodup_singleton _, fun x listed y new same => ?_⟩
  obtain ⟨e, he, rfl⟩ := List.mem_map.1 listed
  exact fresh e he (same.trans (List.mem_singleton.1 new))

/-- The oldest Declined entry leaves a list that has one (R78). -/
theorem length_evictOldest {l : List Entry} (declined : ∃ e ∈ l, e.answer = .declined) :
    (evictOldest l).length = l.length - 1 := by
  obtain ⟨e, he, answer⟩ := declined
  exact List.length_eraseP_of_mem he (decide_eq_true answer)

theorem boundedList_evictOldest {l : List Entry} (h : boundedList l) : boundedList (evictOldest l) :=
  ⟨List.length_eraseP_le.trans h.1, h.2.sublist (List.eraseP_sublist.map _)⟩

/-! ### The room for a reply (R78) -/

theorem roomFor_update {l : List Entry} : (∃ e ∈ l, e.member = m) → roomFor l m a = .update := by
  intro listed
  exact if_pos (by simpa using listed)

section Fresh

variable {l : List Entry} (fresh : ∀ e ∈ l, e.member ≠ m)
include fresh

theorem roomFor_append (short : l.length < 24) : roomFor l m a = .append := by
  rw [roomFor, if_neg (by simpa using fresh)]
  exact if_pos short

/-- A full list takes no Declined answer, and any other in the place of a Declined entry. -/
theorem roomFor_full (full : 24 ≤ l.length) : roomFor l m a =
    if a = .declined then .noRoom false else if l.any (fun e => e.answer = .declined) then .evict else .noRoom true := by
  rw [roomFor, if_neg (by simpa using fresh)]
  exact if_neg (Nat.not_lt.2 full)

theorem roomFor_dropped (full : 24 ≤ l.length) (declined : a = .declined) : roomFor l m a = .noRoom false := by
  rw [roomFor_full fresh full, if_pos declined]

theorem roomFor_evict (full : 24 ≤ l.length) (counts : a ≠ .declined) (declined : ∃ e ∈ l, e.answer = .declined) :
    roomFor l m a = .evict := by
  rw [roomFor_full fresh full, if_neg counts]
  exact if_pos (by simpa using declined)

theorem roomFor_noRoom (full : 24 ≤ l.length) (counts : a ≠ .declined) (none : ∀ e ∈ l, e.answer ≠ .declined) :
    roomFor l m a = .noRoom true := by
  rw [roomFor_full fresh full, if_neg counts]
  exact if_neg (by simpa using none)

end Fresh

/-- What a room outcome says of the list. -/
inductive RoomIn (l : List Entry) (m : MemberIdx) (a : Answer) : Room → Prop
  | update (listed : ∃ e ∈ l, e.member = m) : RoomIn l m a .update
  | append (fresh : ∀ e ∈ l, e.member ≠ m) (short : l.length < 24) : RoomIn l m a .append
  | evict (fresh : ∀ e ∈ l, e.member ≠ m) (full : 24 ≤ l.length) (counts : a ≠ .declined)
      (declined : ∃ e ∈ l, e.answer = .declined) : RoomIn l m a .evict
  | noRoom (b : Bool) : RoomIn l m a (.noRoom b)

theorem roomFor_cases (l : List Entry) (m : MemberIdx) (a : Answer) : RoomIn l m a (roomFor l m a) := by
  by_cases listed : ∃ e ∈ l, e.member = m
  · exact roomFor_update listed ▸ .update listed
  · have fresh : ∀ e ∈ l, e.member ≠ m := fun e he here => listed ⟨e, he, here⟩
    rcases Nat.lt_or_ge l.length 24 with short | full
    · exact roomFor_append fresh short ▸ .append fresh short
    · by_cases dropped : a = .declined
      · exact roomFor_dropped fresh full dropped ▸ .noRoom false
      · by_cases declined : ∃ e ∈ l, e.answer = .declined
        · exact roomFor_evict fresh full dropped declined ▸ .evict fresh full dropped declined
        · have none : ∀ e ∈ l, e.answer ≠ .declined := fun e he answer => declined ⟨e, he, answer⟩
          exact roomFor_noRoom fresh full dropped none ▸ .noRoom true

/-- The list of a reply recorded where there is room for it stays bounded (R75, R77, R78). -/
theorem boundedList_recordIn (h : boundedList c.entries) {room : Room} (fits : RoomIn c.entries r.member a room)
    (mark : Bool) (defaultEta : Nat) : boundedList (recordIn c r a mark defaultEta room) := by
  cases fits with
  | update => exact boundedList_congr (updateEntry_members _ _ _ _ _ _) h
  | append fresh short => exact boundedList_append h short fresh _ _ _ _
  | evict fresh full counts declined =>
    refine boundedList_append (boundedList_evictOldest h) ?_ (fun e he => fresh e (List.mem_of_mem_eraseP he)) _ _ _ _
    have := length_evictOldest declined
    have := h.1
    omega
  | noRoom => exact h

/-! ### The operations -/

theorem boundedList_evaluated (s : State) (h : boundedList c.entries) : boundedList (s.evaluated c).entries :=
  boundedList_congr (s.evaluated_entries c).1 h

theorem State.listsKept.listsBounded (kept : s.listsKept t) (law : s.listsBounded) : t.listsBounded := by
  intro k d held
  obtain ⟨c, before, same⟩ := kept.before held
  obtain ⟨-, entries, -⟩ := Callout.of_roll same
  rw [entries]
  exact law k c before

theorem State.engageReply_slots (s : State) (n : Half) (m : MemberIdx) (a : Answer) (mark : Bool) :
    (s.engageReply n m a mark).slots = s.slots := by
  have frame := congrArg State.slots (s.engageReply_frame n m a mark).1
  exact frame

theorem State.listsBounded_record (law : s.listsBounded) (held : s.slots[k] = some c) {room : Room}
    (fits : RoomIn c.entries r.member a room) (mark : Bool) : (s.record k c r a mark room).listsBounded := by
  have engaged : (s.engageReply c.number r.member a mark).everyCallout fun _ c => boundedList c.entries :=
    (State.everyCallout_of_slots (s.engageReply_slots _ _ _ _)).2 law
  refine (s.record_effect k c r a mark room).listsKept.listsBounded (State.everyCallout_settle (engaged.others k) ?_)
  exact boundedList_evaluated s (boundedList_recordIn (law k c held) fits _ _)

theorem State.listsBounded_withdraw (law : s.listsBounded) (held : s.slots[k] = some d) (r : Reply) :
    (s.withdraw k d r).listsBounded := by
  have engaged : (s.engage r.member .free).listsBounded := law
  refine (s.withdraw_effect k d r).listsKept.listsBounded (State.everyCallout_settle (engaged.others k) ?_)
  exact boundedList_evaluated s (boundedList_congr (withdrawEntry_members _ _) (law k d held))

/-- The callout of a reply stands where it stood after the withdrawal of its member from another (R72). -/
theorem State.slots_withdraw (held : s.slots[k] = some c) {kd : SlotIdx} (weighed : s.weigh c r = .withdrawing kd d) :
    (s.withdraw kd d r).slots[k] = some c ∧ k ≠ kd := by
  obtain ⟨before, differs⟩ := State.weigh_withdrawing weighed
  have other : k ≠ kd := by
    rintro rfl
    rw [held] at before
    cases before
    exact differs rfl
  simp only [State.withdraw_slots]
  exact ⟨(State.slots_setSlot_other s _ other).trans held, other⟩

theorem State.listsBounded_handleReply (law : s.listsBounded) (held : s.slots[k] = some c) (r : Reply) :
    (s.handleReply k c r).1.listsBounded := by
  have fits := roomFor_cases c.entries r.member ((s.weigh c r).answer r)
  have outcomes := s.handleReply_cases k c r
  dsimp only at outcomes
  rcases outcomes with ⟨-, h⟩ | ⟨-, h⟩ | ⟨-, (⟨kd, d, weighed, h⟩ | ⟨weighed, h⟩ | ⟨weighed, h⟩)⟩ <;> rw [h]
  · exact (State.noticed_raiseNotice _ _ _).listsKept.listsBounded law
  · exact law
  · have withdrawn := State.listsBounded_withdraw law (State.weigh_withdrawing weighed).1 r
    rw [weighed] at fits ⊢
    exact State.listsBounded_record withdrawn (State.slots_withdraw held weighed).1 fits false
  · rw [weighed] at fits ⊢
    exact State.listsBounded_record law held fits false
  · rw [weighed] at fits ⊢
    exact State.listsBounded_record law held fits true

theorem State.ListMove.listsBounded (move : s.ListMove t) (law : s.listsBounded) : t.listsBounded := by
  cases move with
  | kept kept => exact kept.listsBounded law
  | raised p k c free active new kept =>
    have filled : (({ s with serialCounter := nextNumber c.number }.takeUpPlan c.plan).setSlot k (some c)).listsBounded := by
      refine State.everyCallout_setSlot_some (s := { s with serialCounter := _ }.takeUpPlan c.plan) (law.others k) ?_
      rw [new]
      exact ⟨Nat.zero_le _, List.nodup_nil⟩
    exact kept.listsBounded ((State.listsKept_allocated active p).listsBounded filled)
  | escalated k c i held active kept =>
    have slots := congrArg State.slots (s.planChanged_frame c i)
    have moved : (s.planChanged c i).everyCallout fun _ c => boundedList c.entries := (State.everyCallout_of_slots slots).2 law
    refine kept.listsBounded ((State.listsKept_escalated active i).listsBounded ?_)
    exact State.everyCallout_settle (moved.others k) (boundedList_evaluated _ (law k c held))
  | cancelled k c held kept =>
    have left : ((s.disengage (Engagement.isTo c.number)).leavePlan c.plan).listsBounded := law
    refine kept.listsBounded ?_
    unfold State.cancelCallout
    dsimp only
    split
    · exact State.everyCallout_setSlot_some (left.others k) (law k c held)
    · exact State.everyCallout_free k (left.others k) c .cancelled
  | departed k c held kept =>
    have left : ((s.disengage fun e => e = .responding c.number).leavePlan c.plan).listsBounded := law
    refine kept.listsBounded ((State.noticed_raiseNotice _ _ _).listsKept.listsBounded ?_)
    exact State.everyCallout_setSlot_some (left.others k) (law k c held)
  | released k c held departed kept =>
    have left : (s.disengage fun e => e = .assigned c.number).listsBounded := law
    exact kept.listsBounded (State.everyCallout_free k (left.others k) c .released)
  | replied u k c r before held active answers kept =>
    exact kept.listsBounded (State.listsBounded_handleReply (before.listsBounded law) held r)
  | cleared roster slots handOffs =>
    intro k c held
    rw [slots k] at held
    cases held

/-- Settles O38: a step keeps the lists, or writes one list back in which a reply found room. -/
theorem responderListsStayBounded : Obligations.ResponderListsStayBounded := by
  intro s t law h
  obtain ⟨u, same, move⟩ := step_listMove h
  exact move.listsBounded (same.listsBounded law)

end Sys2Proof.Machine
end

section
/-! PROOF. The engagement law (R66, R91, R100, R101): what an evaluation written back and the end of a callout's activity make of it. -/

namespace Sys2Proof.Machine

open Sys2Proof

variable {s t u : State} {k : SlotIdx} {c d x : Callout} {m : MemberIdx} {n : Half}

/-! ### The law, member by member and entry by entry -/

/-- A callout of a number backs an engagement of a member to it (R66). -/
def State.backs (s : State) (m : MemberIdx) (n : Half) : Prop :=
  ∃ k : SlotIdx, ∃ c ∈ s.slots[k],
    c.number = n ∧ (c.isActive = true ∨ (c.lifecycle = .departed ∧ (s.member m).engagement = .assigned n)) ∧
      ∃ e ∈ c.entries, e.member = m ∧ e.isCandidate = true

/-- Exactly a candidate's entry has a seat, and the seat engages its member to the callout of a number (R100, R101). -/
def State.seatHolds (s : State) (n : Half) (e : Entry) : Prop :=
  (e.seat ≠ .unseated ↔ e.isCandidate = true) ∧
    ∀ y, e.seat.engagement n = some y → (s.member e.member).engagement = y

/-- The part of the engagement law that speaks of engagements (R66, R101). -/
def State.engaged (s : State) : Prop :=
  (∀ m n, (s.member m).engagement.callout = some n → s.backs m n) ∧
    s.everyCallout fun _ c => c.isActive = true → ∀ e ∈ c.entries, s.seatHolds c.number e

theorem State.engaged_iff : s.engaged ↔ s.engagementsBacked ∧ s.seatsEngaged := by
  refine and_congr Iff.rfl (forall_congr' fun k => forall_congr' fun c => forall_congr' fun _ => forall_congr' fun _ =>
    forall_congr' fun e => forall_congr' fun _ => ?_)
  unfold State.seatHolds
  cases e.seat <;> simp [Seat.engagement]

theorem Seat.engagement_callout {seat : Seat} {y : Engagement} (gives : seat.engagement n = some y) : y.callout = some n := by
  cases seat <;> cases gives <;> rfl

theorem Seat.engagement_eq_none {seat : Seat} : seat.engagement n = none ↔ seat = .unseated := by
  cases seat <;> simp [Seat.engagement]

section Law

variable (law : s.engaged)
include law

/-- A member engaged to a callout has a candidate's entry in its list (R66). -/
theorem State.engaged.listed (distinct : s.numbersDistinct) (held : s.slots[k] = some c)
    (names : (s.member m).engagement.callout = some c.number) : ∃ e ∈ c.entries, e.member = m ∧ e.isCandidate = true := by
  obtain ⟨j, d, held', number, -, listed⟩ := law.1 m c.number names
  obtain rfl := distinct j k d held' c held number
  rw [held] at held'
  cases held'
  exact listed

/-- A candidate of an Active callout is engaged to it (R101). -/
theorem State.engaged.candidate (held : s.slots[k] = some c) (active : c.isActive = true) {e : Entry} (listed : e ∈ c.entries)
    (candidate : e.isCandidate = true) : (s.member e.member).engagement.callout = some c.number := by
  obtain ⟨seated, gives⟩ := law.2 k c held active e listed
  obtain ⟨y, seat⟩ := Option.ne_none_iff_exists'.1 fun none => seated.2 candidate (Seat.engagement_eq_none (n := c.number).1 none)
  rw [gives y seat]
  exact Seat.engagement_callout seat

/-- An engagement to another callout is backed by another slot. -/
theorem State.engaged.elsewhere (held : s.slots[k] = some c) (names : (s.member m).engagement.callout = some n) (other : n ≠ c.number)
    (slots : ∀ j, j ≠ k → t.slots[j] = s.slots[j]) (same : (t.member m).engagement = (s.member m).engagement) : t.backs m n := by
  obtain ⟨j, d, held', number, stands, listed⟩ := law.1 m n names
  refine ⟨j, d, ?_, number, same ▸ stands, listed⟩
  rw [slots j]
  · exact held'
  · rintro rfl
    rw [held] at held'
    cases held'
    exact other number.symm

/-- A seat in another callout holds as long as members engaged elsewhere keep their engagements. -/
theorem State.engaged.otherSeats (distinct : s.numbersDistinct) (held : s.slots[k] = some c) {j : SlotIdx} (other : j ≠ k)
    (held' : s.slots[j] = some d) (active : d.isActive = true) {e : Entry} (listed : e ∈ d.entries)
    (same : ∀ m, (t.member m).engagement = (s.member m).engagement ∨
      ∀ n, (s.member m).engagement.callout = some n → n = c.number) : t.seatHolds d.number e := by
  obtain ⟨seated, gives⟩ := law.2 j d held' active e listed
  refine ⟨seated, fun y seat => ?_⟩
  rcases same e.member with same | free
  · exact same.trans (gives y seat)
  · have names : (s.member e.member).engagement.callout = some d.number := gives y seat ▸ Seat.engagement_callout seat
    exact absurd (distinct j k d held' c held (free _ names)) other

end Law

/-! ### What keeps the lists -/

/-- Callouts whose numbers stood in their slots before have distinct numbers still. -/
theorem State.numbersDistinct_of_numbers (distinct : s.numbersDistinct)
    (before : ∀ (k : SlotIdx) (d : Callout), t.slots[k] = some d → ∃ c, s.slots[k] = some c ∧ d.number = c.number) :
    t.numbersDistinct := by
  intro k j c held d held' same
  obtain ⟨c₀, there, number⟩ := before k c held
  obtain ⟨d₀, there', number'⟩ := before j d held'
  exact distinct k j c₀ there d₀ there' (number.symm.trans (same.trans number'))

theorem State.listsKept.numbersDistinct (kept : s.listsKept t) (distinct : s.numbersDistinct) : t.numbersDistinct :=
  State.numbersDistinct_of_numbers distinct fun _ _ held => by
    obtain ⟨c, before, roll⟩ := kept.before held
    exact ⟨c, before, (Callout.of_roll roll).1⟩

theorem State.listsKept.handOffsAnswer (kept : s.listsKept t) (law : s.handOffsAnswer) : t.handOffsAnswer :=
  fun h on => (kept.replies h on).elim (law h) id

theorem State.listsKept.engaged (kept : s.listsKept t) (law : s.engaged) : t.engaged := by
  refine ⟨fun m n names => ?_, fun k d held active e listed => ?_⟩
  · rw [kept.engagements] at names
    obtain ⟨k, c, held, number, stands, listed⟩ := law.1 m n names
    have stays : c.lifecycle.code ≠ 3 := by
      rcases stands with active | ⟨departed, -⟩
      · rw [Callout.isActive_iff_code.1 active]
        decide
      · rw [departed]
        decide
    obtain ⟨d, held', roll⟩ := kept.after held stays
    obtain ⟨number', entries, active, departed⟩ := Callout.of_roll roll
    exact ⟨k, d, held', number'.trans number, by rwa [active, departed, kept.engagements], entries ▸ listed⟩
  · obtain ⟨c, before, roll⟩ := kept.before held
    obtain ⟨number, entries, active', -⟩ := Callout.of_roll roll
    obtain ⟨seated, gives⟩ := law.2 k c before (active'.1 active) e (entries ▸ listed)
    exact ⟨seated, fun y seat => (kept.engagements _).trans (gives y (number ▸ seat))⟩

/-! ### An evaluation written back -/

theorem State.settle_slots (s : State) (k : SlotIdx) (c : Callout) (j : SlotIdx) :
    (s.settle k c).slots[j] = if j = k then some c else s.slots[j] := by
  rw [(s.settle_frame k c).2]
  exact s.slots_setSlot k (some c) j

theorem Crew.seatFor_gives (w : Crew) (m : MemberIdx) (n : Half) : ∃ y, (w.seatFor m).engagement n = some y := by
  unfold Crew.seatFor
  split <;> exact ⟨_, rfl⟩

/-- The seats of an evaluation hold once it is written back (R100, R101). -/
theorem State.seatHolds_evaluated (s : State) (k : SlotIdx) {e : Entry} (listed : e ∈ (s.evaluated c).entries) :
    (s.settle k (s.evaluated c)).seatHolds c.number e := by
  refine ⟨?_, fun y seat => State.engagement_of_evaluated k listed seat⟩
  obtain ⟨x, -, rfl⟩ := State.mem_evaluated_entries.1 listed
  by_cases candidate : x.isCandidate = true
  · refine iff_of_true (fun unseated => ?_) candidate
    obtain ⟨y, gives⟩ := Crew.seatFor_gives (s.evaluated c).crew x.member c.number
    have unseated : seatIn (s.evaluated c).crew x = .unseated := unseated
    rw [← seatIn_candidate _ candidate, unseated] at gives
    cases gives
  · exact iff_of_false (not_not.2 (seatIn_other _ candidate)) candidate

/-- An evaluation of an Active callout written back keeps the law, where the members whose engagements were written before have no
engagement but to the callout, exactly the candidates of the list are engaged to it. -/
theorem State.engaged_settle (law : s.engaged) (distinct : s.numbersDistinct) (held : s.slots[k] = some c)
    (slots : u.slots = s.slots)
    (written : ∀ m, (u.member m).engagement = (s.member m).engagement ∨
      (∀ n, (s.member m).engagement.callout = some n → n = c.number) ∧
        ∀ n, (u.member m).engagement.callout = some n → n = c.number)
    (listed : ∀ m, (u.member m).engagement.callout = some c.number → ∃ e ∈ x.entries, e.member = m ∧ e.isCandidate = true)
    (unengaged : ∀ e ∈ x.entries, e.isCandidate = true → ∀ n, (u.member e.member).engagement.callout = some n → n = c.number)
    (active : x.isActive = true) : (u.settle k (u.evaluated x)).engaged := by
  have others : ∀ j, j ≠ k → (u.settle k (u.evaluated x)).slots[j] = s.slots[j] := fun j other => by
    rw [State.settle_slots, if_neg other]
    simp only [slots]
  have own : (u.settle k (u.evaluated x)).slots[k] = some (u.evaluated x) := by rw [State.settle_slots, if_pos rfl]
  refine ⟨fun m n names => ?_, fun j d held' active' e he => ?_⟩
  · by_cases candidate : ∃ e ∈ x.entries, e.member = m ∧ e.isCandidate = true
    · obtain ⟨y, gives⟩ := Crew.seatFor_gives (u.evaluated x).crew m x.number
      rw [State.member_settle_evaluated u k x gives, if_pos candidate] at names
      have here : n = x.number := Option.some.inj (names.symm.trans (Seat.engagement_callout gives))
      obtain ⟨e, he, member, counts⟩ := candidate
      exact ⟨k, u.evaluated x, own, here.symm, .inl active, _, State.mem_evaluated_entries.2 ⟨e, he, rfl⟩, member, counts⟩
    · have same : (u.settle k (u.evaluated x)).member m = u.member m :=
        State.member_settle_unnamed u k x fun e he counts member => candidate ⟨e, he, member, counts⟩
      rw [same] at names
      have other : n ≠ c.number := by
        rintro rfl
        exact candidate (listed m names)
      rcases written m with before | ⟨-, free⟩
      · exact law.elsewhere held (before ▸ names) other others ((congrArg Member.engagement same).trans before)
      · exact absurd (free n names) other
  · by_cases here : j = k
    · subst here
      rw [own] at held'
      cases held'
      exact State.seatHolds_evaluated u j he
    · rw [others j here] at held'
      refine law.otherSeats distinct held here held' active' he fun m => ?_
      by_cases candidate : ∃ e ∈ x.entries, e.member = m ∧ e.isCandidate = true
      · obtain ⟨e, he, rfl, counts⟩ := candidate
        exact .inr ((written e.member).elim (fun before => before ▸ unengaged e he counts) fun free => free.1)
      · have same : (u.settle k (u.evaluated x)).member m = u.member m :=
          State.member_settle_unnamed u k x fun e he counts member => candidate ⟨e, he, member, counts⟩
        rw [same]
        exact (written m).imp_right fun free => free.1

/-! ### A callout that leaves Active, or its slot -/

/-- A callout replaced by one that is not Active, or by none, keeps the law where its members are freed, or their engagements
backed by what replaced it. -/
theorem State.engaged_left (law : s.engaged) (distinct : s.numbersDistinct) (held : s.slots[k] = some c)
    (slots : ∀ j, j ≠ k → t.slots[j] = s.slots[j]) (left : ∀ d, t.slots[k] = some d → d.isActive = false)
    (freed : ∀ m, (t.member m).engagement = (s.member m).engagement ∨
      (s.member m).engagement.callout = some c.number ∧ (t.member m).engagement = .free)
    (backed : ∀ m, (t.member m).engagement = (s.member m).engagement →
      (s.member m).engagement.callout = some c.number → t.backs m c.number) : t.engaged := by
  refine ⟨fun m n names => ?_, fun j d held' active e listed => ?_⟩
  · rcases freed m with same | ⟨-, free⟩
    · rw [same] at names
      by_cases here : n = c.number
      · subst here
        exact backed m same names
      · exact law.elsewhere held names here slots same
    · rw [free] at names
      cases names
  · have other : j ≠ k := by
      rintro rfl
      exact Bool.false_ne_true ((left d held').symm.trans active)
    rw [slots j other] at held'
    refine law.otherSeats distinct held other held' active listed fun m => (freed m).imp_right fun free n names => ?_
    exact Option.some.inj (names.symm.trans free.1)

/-- The engagements that a freeing leaves (R53, R55, R56). -/
theorem State.disengage_cases {which : Engagement → Bool} (only : ∀ e, which e = true → e.callout = some n) (m : MemberIdx) :
    ((s.disengage which).member m).engagement = (s.member m).engagement ∧ which (s.member m).engagement = false ∨
      (s.member m).engagement.callout = some n ∧ ((s.disengage which).member m).engagement = .free := by
  rw [State.member_disengage]
  cases chosen : which (s.member m).engagement with
  | true => exact .inr ⟨only _ chosen, rfl⟩
  | false => exact .inl ⟨rfl, rfl⟩

theorem State.engaged_cancelCallout (law : s.engaged) (distinct : s.numbersDistinct) (held : s.slots[k] = some c) :
    (s.cancelCallout k c).engaged := by
  have freed := State.disengage_cases (s := s) (which := Engagement.isTo c.number) (n := c.number)
    fun e names => of_decide_eq_true names
  have unnamed : ∀ m, ((s.disengage (Engagement.isTo c.number)).member m).engagement = (s.member m).engagement →
      (s.member m).engagement.callout ≠ some c.number := by
    intro m same names
    rcases freed m with ⟨-, not⟩ | ⟨-, free⟩
    · exact of_decide_eq_false not names
    · rw [← same, free] at names
      cases names
  have left : ∀ x : Option Callout, (∀ d ∈ x, d.isActive = false) →
      (((s.disengage (Engagement.isTo c.number)).leavePlan c.plan).setSlot k x).engaged := fun x inactive => by
    refine State.engaged_left law distinct held (fun j other => State.slots_setSlot_other _ _ other) (fun d held' => ?_)
      (fun m => (freed m).imp_left And.left) fun m same names => absurd names (unnamed m same)
    rw [State.slots_setSlot_self] at held'
    exact inactive d held'
  unfold State.cancelCallout
  dsimp only
  split
  · exact left _ fun d standing => Option.mem_some_iff.1 standing ▸ rfl
  · exact (State.noticed_raiseNotice _ _ _).listsKept.engaged (left none fun _ gone => by cases gone)

/-- The Assigned members of a callout that departs stay engaged to it (R55). -/
theorem State.engaged_depart (law : s.engaged) (distinct : s.numbersDistinct) (held : s.slots[k] = some c) :
    (s.depart k c).engaged := by
  have freed := State.disengage_cases (s := s) (which := fun e => e = .responding c.number) (n := c.number)
    fun e names => of_decide_eq_true names ▸ rfl
  refine (State.noticed_raiseNotice _ _ _).listsKept.engaged ?_
  refine State.engaged_left law distinct held (fun j other => State.slots_setSlot_other _ _ other) (fun d held' => ?_)
    (fun m => (freed m).imp_left And.left) fun m same names => ?_
  · rw [State.slots_setSlot_self] at held'
    cases held'
    rfl
  · have listed := law.listed distinct held names
    refine ⟨k, _, State.slots_setSlot_self _ _ _, rfl, .inr ⟨rfl, same.trans ?_⟩, listed⟩
    rcases freed m with ⟨-, not⟩ | ⟨-, free⟩
    · cases engagement : (s.member m).engagement with
      | free =>
        rw [engagement] at names
        cases names
      | assigned n =>
        rw [engagement] at names
        cases names
        rfl
      | responding n =>
        rw [engagement] at names not
        cases names
        exact absurd rfl (of_decide_eq_false not)
    · have gone := same.symm.trans free
      rw [gone] at names
      cases names

/-- None but the Assigned members are engaged to a callout that has departed (R56). -/
theorem State.engaged_releaseCallout (law : s.engaged) (distinct : s.numbersDistinct) (held : s.slots[k] = some c)
    (departed : c.lifecycle = .departed) : (s.releaseCallout k c).engaged := by
  have freed := State.disengage_cases (s := s) (which := fun e => e = .assigned c.number) (n := c.number)
    fun e names => of_decide_eq_true names ▸ rfl
  refine (State.noticed_raiseNotice _ _ _).listsKept.engaged ?_
  refine State.engaged_left law distinct held (fun j other => State.slots_setSlot_other _ _ other) (fun d held' => ?_)
    (fun m => (freed m).imp_left And.left) fun m same names => ?_
  · rw [State.slots_setSlot_self] at held'
    cases held'
  · obtain ⟨j, d, held', number, stands, -⟩ := law.1 m c.number names
    obtain rfl := distinct j k d held' c held number
    rw [held] at held'
    cases held'
    rcases stands with active | ⟨-, assigned⟩
    · simp [Callout.isActive, departed] at active
    · rcases freed m with ⟨-, not⟩ | ⟨-, free⟩
      · exact absurd assigned (of_decide_eq_false not)
      · have gone := same.symm.trans free
        rw [gone] at names
        cases names

/-- A new callout, its list empty, is no member's (R40). -/
theorem State.engaged_setSlot_new (law : s.engaged) (free : s.slots[k] = none) (new : c.entries = []) :
    (s.setSlot k (some c)).engaged := by
  refine ⟨fun m n names => ?_, State.everyCallout_setSlot_some (law.2.others k) fun _ e listed => ?_⟩
  · obtain ⟨j, d, held, number, stands, listed⟩ := law.1 m n names
    refine ⟨j, d, ?_, number, stands, listed⟩
    rw [State.slots_setSlot_other]
    · exact held
    · rintro rfl
      rw [free] at held
      cases held
  · rw [new] at listed
    cases listed

end Sys2Proof.Machine
end

section
/-! PROOF. Replies and the engagement law (R66, R72 to R79). -/

namespace Sys2Proof.Machine

open Sys2Proof

variable {s t u : State} {k : SlotIdx} {c d x : Callout} {r : Reply} {a : Answer} {mark : Bool} {m : MemberIdx} {n : Half} {e : Entry}
  {room : Room} {eta : Nat} {l : List Entry} {y : Engagement}

/-! ### The list of a reply recorded -/

theorem mem_updateEntry {l : List Entry} {time : Nat} : e ∈ updateEntry l r a mark eta time ↔
    ∃ y ∈ l, (if y.member = r.member then newEntry r a mark eta time y.first y.seat else y) = e := List.mem_map

theorem mem_appendEntry {l : List Entry} {time : Nat} : e ∈ appendEntry l r a mark eta time ↔
    e ∈ l ∨ e = newEntry r a mark eta time time .unseated := by
  rw [appendEntry, List.mem_append, List.mem_singleton]

theorem mem_withdrawEntry {l : List Entry} : e ∈ withdrawEntry l m ↔
    ∃ y ∈ l, (if y.member = m then { y with answer := .withdrawn, eta := none, estimate := none } else y) = e := List.mem_map

theorem mem_withdrawEntry_other {l : List Entry} (other : e.member ≠ m) : e ∈ withdrawEntry l m ↔ e ∈ l := by
  refine mem_withdrawEntry.trans ⟨?_, fun listed => ⟨e, listed, if_neg other⟩⟩
  rintro ⟨y, listed, rfl⟩
  split at other
  · exact absurd ‹y.member = m› other
  · rwa [if_neg ‹_›]

/-- The entry of a member withdrawn counts no more (R72). -/
theorem withdrawn_of_mem {l : List Entry} (listed : e ∈ withdrawEntry l m) (own : e.member = m) : ¬e.isCandidate = true := by
  obtain ⟨y, -, rfl⟩ := mem_withdrawEntry.1 listed
  split at own
  · rw [if_pos ‹y.member = m›]
    exact Bool.false_ne_true
  · exact absurd own ‹_›

/-- The entries of other members come from the list before. -/
theorem mem_of_recordIn (listed : e ∈ recordIn c r a mark eta room) (other : e.member ≠ r.member) : e ∈ c.entries := by
  cases room with
  | update =>
    obtain ⟨y, before, rfl⟩ := mem_updateEntry.1 listed
    split at other
    · exact absurd rfl other
    · rename_i another
      rwa [if_neg another]
  | append =>
    rcases mem_appendEntry.1 listed with before | rfl
    · exact before
    · exact absurd rfl other
  | evict =>
    rcases mem_appendEntry.1 listed with before | rfl
    · exact List.mem_of_mem_eraseP before
    · exact absurd rfl other
  | noRoom => exact listed

/-- No candidate but the reply's member leaves the list (R75, R78). -/
theorem recordIn_of_mem (listed : e ∈ c.entries) (other : e.member ≠ r.member) (candidate : e.isCandidate = true) :
    e ∈ recordIn c r a mark eta room := by
  cases room with
  | update => exact mem_updateEntry.2 ⟨e, listed, if_neg other⟩
  | append => exact mem_appendEntry.2 (.inl listed)
  | evict =>
    refine mem_appendEntry.2 (.inl ((List.mem_eraseP_of_neg fun declined => ?_).2 listed))
    rw [Entry.isCandidate, of_decide_eq_true declined] at candidate
    cases candidate
  | noRoom => exact listed

section Fits

variable (fits : RoomIn c.entries r.member a room) (found : ∀ b, room ≠ .noRoom b)
include fits found

/-- The entry of the reply's member is the reply's (R75, R77). -/
theorem newEntry_of_recordIn (listed : e ∈ recordIn c r a mark eta room) (own : e.member = r.member) :
    ∃ first seat, e = newEntry r a mark eta c.elapsed first seat := by
  cases fits with
  | update =>
    obtain ⟨y, -, rfl⟩ := mem_updateEntry.1 listed
    split at own
    · rename_i here
      exact ⟨_, _, if_pos here⟩
    · exact absurd own ‹_›
  | append fresh =>
    rcases mem_appendEntry.1 listed with before | rfl
    · exact absurd own (fresh e before)
    · exact ⟨_, _, rfl⟩
  | evict fresh =>
    rcases mem_appendEntry.1 listed with before | rfl
    · exact absurd own (fresh e (List.mem_of_mem_eraseP before))
    · exact ⟨_, _, rfl⟩
  | noRoom b => exact absurd rfl (found b)

theorem answer_of_recordIn (listed : e ∈ recordIn c r a mark eta room) (own : e.member = r.member) : e.answer = a := by
  obtain ⟨_, _, rfl⟩ := newEntry_of_recordIn fits found listed own
  rfl

theorem recordIn_own : ∃ e ∈ recordIn c r a mark eta room, e.member = r.member := by
  cases fits with
  | update listed =>
    obtain ⟨y, before, own⟩ := listed
    exact ⟨_, mem_updateEntry.2 ⟨y, before, if_pos own⟩, rfl⟩
  | append => exact ⟨_, mem_appendEntry.2 (.inr rfl), rfl⟩
  | evict => exact ⟨_, mem_appendEntry.2 (.inr rfl), rfl⟩
  | noRoom b => exact absurd rfl (found b)

end Fits

/-! ### The engagements that a reply writes -/

theorem State.evaluated_congr (plans : t.plans = s.plans) (quals : ∀ m, (t.member m).quals = (s.member m).quals) (x : Callout) :
    t.evaluated x = s.evaluated x := by
  have candidates : candidatesOf t.roster x.entries = candidatesOf s.roster x.entries := by
    refine List.map_congr_left fun e _ => ?_
    rw [show t.roster[e.member].quals = s.roster[e.member].quals from quals e.member]
  simp only [State.evaluated, plans, candidates]

/-- An engagement written touches nothing else of any member. -/
theorem State.member_engage (s : State) (m : MemberIdx) (y : Engagement) (j : MemberIdx) :
    (s.engage m y).member j = if j = m then { s.member j with engagement := y } else s.member j := by
  split
  · rename_i here
    subst here
    exact State.member_engage_self _ _ _
  · rename_i other
    exact State.member_engage_other _ _ other

theorem State.evaluated_engage (s : State) (m : MemberIdx) (y : Engagement) (x : Callout) :
    (s.engage m y).evaluated x = s.evaluated x := by
  refine State.evaluated_congr (s.engage_plans m y) (fun j => ?_) x
  rw [State.member_engage]
  split <;> rfl

/-- The engagement that a reply gives its member before the evaluation (R74, R79). -/
def replyEngagement (n : Half) (a : Answer) (mark : Bool) (before : Engagement) : Engagement :=
  match a with
  | .declined => if !mark && before.isTo n then .free else before
  | .withdrawn => before
  | _ => .responding n

theorem State.engage_same (s : State) (m : MemberIdx) : s.engage m (s.member m).engagement = s := by
  show { s with roster := s.roster.set m s.roster[m.val] } = s
  rw [Vector.set_getElem_self]

theorem State.engageReply_eq (s : State) (n : Half) (m : MemberIdx) (a : Answer) (mark : Bool) :
    s.engageReply n m a mark = s.engage m (replyEngagement n a mark (s.member m).engagement) := by
  cases a with
  | attending | arrived => rfl
  | withdrawn => exact (s.engage_same m).symm
  | declined =>
    unfold State.engageReply replyEngagement
    dsimp only
    split
    · rfl
    · exact (s.engage_same m).symm

/-- A candidate's answer engages its member to the callout (R74). -/
theorem replyEngagement_counts (counts : a = .attending ∨ a = .arrived) (before : Engagement) :
    replyEngagement n a mark before = .responding n := by
  rcases counts with rfl | rfl <;> rfl

/-- A Declined answer frees a member engaged to the callout, unless it is recorded with the mark (R79). -/
theorem replyEngagement_declined (before : Engagement) :
    replyEngagement n .declined mark before = if mark = false ∧ before.callout = some n then .free else before := by
  simp [replyEngagement, Engagement.isTo]

/-! ### A list revised -/

/-- A callout's list replaced for a reply, with the engagement of its member written, the evaluation and the notices: what a
withdrawal and a recording do, each with a list and an engagement of its own (R72, R74 to R80). -/
def State.revise (s : State) (k : SlotIdx) (c : Callout) (r : Reply) (l : List Entry) (y : Engagement) : State :=
  let c' := s.evaluated { c with entries := l }
  let s' := (s.engage r.member y).settle k c'
  (s'.raiseReply c' r.member r.source).raiseCrewStatus c.crew c'

theorem State.withdraw_eq (s : State) (k : SlotIdx) (d : Callout) (r : Reply) :
    s.withdraw k d r = s.revise k d r (withdrawEntry d.entries r.member) .free := rfl

theorem State.record_eq (s : State) (k : SlotIdx) (c : Callout) (r : Reply) (a : Answer) (mark : Bool) (room : Room) :
    s.record k c r a mark room = s.revise k c r (recordIn c r a mark (s.member r.member).defaultEta room)
      (replyEngagement c.number a mark (s.member r.member).engagement) := by
  unfold State.record State.revise
  rw [State.engageReply_eq]

section Revise

variable (s k c r l y)

theorem State.revise_effect : ((s.engage r.member y).settle k (s.evaluated { c with entries := l })).noticed (s.revise k c r l y) :=
  State.noticed_trans (State.noticed_raiseReply _ _ _ _) (State.noticed_raiseCrewStatus _ _ _)

theorem State.slots_revise : (s.revise k c r l y).slots = s.slots.set k (some (s.evaluated { c with entries := l })) := by
  rw [(s.revise_effect k c r l y).sameTables.slots, (State.settle_frame _ _ _).2]
  rfl

/-- A member after a revision: engaged as the evaluation says, the reply's member as written before it, the others as they were. -/
theorem State.member_revise (m : MemberIdx) :
    (s.revise k c r l y).member m =
      ((s.engage r.member y).settle k ((s.engage r.member y).evaluated { c with entries := l })).member m := by
  have roster := (s.revise_effect k c r l y).sameTables.roster
  rw [State.evaluated_engage, State.member, State.member, roster]

variable {s k c r l y}

/-- A member that the list does not count as a candidate is left with the engagement written (R101). -/
theorem State.member_revise_uncounted (uncounted : ∀ e ∈ l, e.isCandidate = true → e.member ≠ m) :
    (s.revise k c r l y).member m = (s.engage r.member y).member m := by
  rw [State.member_revise]
  exact State.member_settle_unnamed _ k { c with entries := l } uncounted

end Revise

/-! ### Recording and withdrawing -/

/-- What the engagement rule has made sure of before a reply is recorded (R72, R73). -/
structure State.admits (s : State) (c : Callout) (r : Reply) (a : Answer) (mark : Bool) : Prop where
  answers : a ≠ .withdrawn
  counts : a = .attending ∨ a = .arrived → ∀ n, (s.member r.member).engagement.callout = some n → n = c.number
  marked : mark = true → (s.member r.member).engagement.callout ≠ some c.number

section Law

variable (law : s.engaged) (distinct : s.numbersDistinct) (held : s.slots[k] = some c) (active : c.isActive = true)
include law distinct held active

/-- A revision keeps the law, where the other members' candidates stay in the list, and the reply's member is engaged to the callout
exactly if the list counts it. -/
theorem State.engaged_revise
    (written : y = (s.member r.member).engagement ∨
      (∀ n, (s.member r.member).engagement.callout = some n → n = c.number) ∧ ∀ n, y.callout = some n → n = c.number)
    (others : ∀ e, e.member ≠ r.member → e.isCandidate = true → (e ∈ l ↔ e ∈ c.entries))
    (engages : y.callout = some c.number → ∃ e ∈ l, e.member = r.member ∧ e.isCandidate = true)
    (engaged : ∀ e ∈ l, e.member = r.member → e.isCandidate = true → y.callout = some c.number) :
    (s.revise k c r l y).engaged := by
  have own : ((s.engage r.member y).member r.member).engagement = y := by rw [State.member_engage, if_pos rfl]
  have other : ∀ m, m ≠ r.member → (s.engage r.member y).member m = s.member m := fun m differs => by
    rw [State.member_engage, if_neg differs]
  refine (s.revise_effect k c r l y).listsKept.engaged ?_
  rw [← State.evaluated_engage s r.member y]
  refine State.engaged_settle law distinct held rfl (fun m => ?_) (fun m names => ?_) (fun e listed candidate n names => ?_) active
  · by_cases here : m = r.member
    · subst here
      rw [own]
      exact written
    · exact .inl (congrArg Member.engagement (other m here))
  · by_cases here : m = r.member
    · subst here
      exact engages (own ▸ names)
    · rw [other m here] at names
      obtain ⟨e, listed, rfl, candidate⟩ := law.listed distinct held names
      exact ⟨e, (others e here candidate).2 listed, rfl, candidate⟩
  · by_cases here : e.member = r.member
    · rw [here, own, engaged e listed here candidate] at names
      exact (Option.some.inj names).symm
    · rw [other _ here, law.candidate held active ((others e here candidate).1 listed) candidate] at names
      exact (Option.some.inj names).symm

/-- A candidate's answer engages its member, and a Declined one frees it, unless it is recorded with the mark (R74, R79). -/
theorem State.engaged_record (admits : s.admits c r a mark) (fits : RoomIn c.entries r.member a room)
    (found : ∀ b, room ≠ .noRoom b) : (s.record k c r a mark room).engaged := by
  have others : ∀ e : Entry, e.member ≠ r.member → e.isCandidate = true →
      (e ∈ recordIn c r a mark (s.member r.member).defaultEta room ↔ e ∈ c.entries) := fun e other candidate =>
    ⟨fun listed => mem_of_recordIn listed other, fun listed => recordIn_of_mem listed other candidate⟩
  have answered : ∀ e ∈ recordIn c r a mark (s.member r.member).defaultEta room, e.member = r.member →
      (e.isCandidate = true ↔ a = .attending ∨ a = .arrived) := fun e listed own => by
    rw [Entry.isCandidate_iff, answer_of_recordIn fits found listed own]
  rw [State.record_eq]
  by_cases counts : a = .attending ∨ a = .arrived
  · rw [replyEngagement_counts counts]
    have here : ∀ n, (Engagement.responding c.number).callout = some n → n = c.number := fun n names => (Option.some.inj names).symm
    refine State.engaged_revise law distinct held active (.inr ⟨admits.counts counts, here⟩) others (fun _ => ?_) fun _ _ _ _ => rfl
    obtain ⟨e, listed, own⟩ := recordIn_own (mark := mark) (eta := (s.member r.member).defaultEta) fits found
    exact ⟨e, listed, own, (answered e listed own).2 counts⟩
  · obtain rfl : a = .declined := by
      have answers := admits.answers
      cases a <;> simp at answers counts ⊢
    rw [replyEngagement_declined]
    refine State.engaged_revise law distinct held active ?_ others (fun names => ?_) fun e listed own candidate =>
      absurd ((answered e listed own).1 candidate) counts
    · split
      · rename_i freed
        exact .inr ⟨fun n names => Option.some.inj (names.symm.trans freed.2), fun n free => by cases free⟩
      · exact .inl rfl
    · split at names
      · cases names
      · rename_i stays
        cases mark with
        | true => exact absurd names (admits.marked rfl)
        | false => exact absurd ⟨rfl, names⟩ stays

/-- A member withdrawn is freed, and its entry counts no more (R72). -/
theorem State.engaged_withdraw (names : (s.member r.member).engagement.callout = some c.number) : (s.withdraw k c r).engaged := by
  rw [State.withdraw_eq]
  refine State.engaged_revise law distinct held active ?_ (fun e other _ => ?_) (fun free => by cases free) fun e listed own candidate => ?_
  · exact .inr ⟨fun n names' => Option.some.inj (names'.symm.trans names), fun n free => by cases free⟩
  · exact mem_withdrawEntry_other other
  · exact absurd candidate (withdrawn_of_mem listed own)

end Law

/-! ### The engagement rule (R72, R73) -/

/-- A member withdrawn is Free (R72). -/
theorem State.engagement_withdraw (s : State) (k : SlotIdx) (d : Callout) (r : Reply) :
    ((s.withdraw k d r).member r.member).engagement = .free := by
  rw [State.withdraw_eq, State.member_revise_uncounted, State.member_engage_self]
  exact fun e listed candidate own => absurd candidate (withdrawn_of_mem listed own)

theorem State.numbersDistinct_withdraw (distinct : s.numbersDistinct) (held : s.slots[k] = some d) (r : Reply) :
    (s.withdraw k d r).numbersDistinct := by
  refine State.numbersDistinct_of_numbers distinct fun j x held' => ?_
  simp only [State.withdraw_slots] at held'
  have there := (s.slots_setSlot k _ j).symm.trans held'
  split at there
  · rename_i here
    subst here
    cases there
    exact ⟨d, held, rfl⟩
  · exact ⟨x, there, rfl⟩

/-- What the rule has looked at in a reply recorded as received (R72). -/
theorem State.weigh_received (weighed : s.weigh c r = .received) : r.answer = .declined ∨
    ∀ d, (s.member r.member).engagement.callout = some d → d = c.number ∨ s.lookup d = none := by
  rcases s.weigh_cases c r with ⟨-, looked⟩ | ⟨_, _, w, -⟩ | ⟨w, -⟩
  · exact looked
  all_goals
    rw [w] at weighed
    cases weighed

/-- The callout that a member is withdrawn from is Active, of lower priority, and holds the member (R72). -/
theorem State.weigh_withdrawing_held {kd : SlotIdx} (weighed : s.weigh c r = .withdrawing kd d) : r.answer ≠ .declined ∧
    d.number ≠ c.number ∧ (s.member r.member).engagement.callout = some d.number ∧ s.slots[kd] = some d ∧ d.isActive = true ∧
      d.priority < c.priority := by
  rcases s.weigh_cases c r with ⟨w, -⟩ | ⟨_, _, w, looked⟩ | ⟨w, -⟩ <;> rw [w] at weighed <;> cases weighed
  exact looked

/-- The callout that keeps a member is not Active, or of no lower priority (R73). -/
theorem State.weigh_elsewhere (weighed : s.weigh c r = .elsewhere) : r.answer ≠ .declined ∧ ∃ (k : SlotIdx) (d : Callout),
    d.number ≠ c.number ∧ (s.member r.member).engagement.callout = some d.number ∧ s.slots[k] = some d ∧
      (d.isActive = false ∨ ¬d.priority < c.priority) := by
  rcases s.weigh_cases c r with ⟨w, -⟩ | ⟨_, _, w, -⟩ | ⟨-, looked⟩
  · rw [w] at weighed
    cases weighed
  · rw [w] at weighed
    cases weighed
  · exact looked

theorem State.weigh_eq_received
    (unheld : r.answer = .declined ∨ ∀ d, (s.member r.member).engagement.callout = some d → d = c.number) :
    s.weigh c r = .received := by
  cases weighed : s.weigh c r with
  | received => rfl
  | withdrawing j x =>
    obtain ⟨counts, other, names, -⟩ := State.weigh_withdrawing_held weighed
    exact absurd (unheld.resolve_left counts _ names) other
  | elsewhere =>
    obtain ⟨counts, -, x, other, names, -⟩ := State.weigh_elsewhere weighed
    exact absurd (unheld.resolve_left counts _ names) other

theorem State.weigh_eq_withdrawing {kd : SlotIdx} (distinct : s.tagsDistinct) (counts : r.answer ≠ .declined)
    (held : s.slots[kd] = some d) (names : (s.member r.member).engagement.callout = some d.number) (other : d.number ≠ c.number)
    (active : d.isActive = true) (below : d.priority.toNat < c.priority.toNat) : s.weigh c r = .withdrawing kd d := by
  have lower : (d.isActive && decide (d.priority < c.priority)) = true := by
    rw [active]
    exact decide_eq_true below
  simp only [State.weigh, if_neg counts, names, if_neg other, State.lookup_of_tagsDistinct distinct held, lower, if_true]

theorem State.weigh_eq_elsewhere (distinct : s.tagsDistinct) (counts : r.answer ≠ .declined)
    (held : s.slots[k] = some d) (names : (s.member r.member).engagement.callout = some d.number) (other : d.number ≠ c.number)
    (keeps : d.isActive = false ∨ c.priority.toNat ≤ d.priority.toNat) : s.weigh c r = .elsewhere := by
  have shut : ¬(d.isActive && decide (d.priority < c.priority)) = true := by
    rw [Bool.and_eq_true, decide_eq_true_iff]
    rintro ⟨active, below⟩
    rcases keeps with inactive | above
    · exact Bool.false_ne_true (inactive.symm.trans active)
    · exact Nat.not_lt.2 above below
  simp only [State.weigh, if_neg counts, names, if_neg other, State.lookup_of_tagsDistinct distinct held, if_neg shut]

/-- A reply recorded with the mark is that of a member that another callout holds (R73). -/
theorem State.admits_elsewhere (weighed : s.weigh c r = .elsewhere) : s.admits c r .declined true := by
  have declined : ¬(Answer.declined = .attending ∨ Answer.declined = .arrived) := by decide
  obtain ⟨-, _, d, differs, names, -⟩ := State.weigh_elsewhere weighed
  exact ⟨by decide, fun counts => absurd counts declined, fun _ here => differs (Option.some.inj (names.symm.trans here))⟩

section Rule

variable (answers : r.answer ≠ .withdrawn)
include answers

/-- A reply recorded as received engages no member that another callout holds (R72). -/
theorem State.admits_received (law : s.engaged) (weighed : s.weigh c r = .received) : s.admits c r r.answer false := by
  refine ⟨answers, fun counts n names => ?_, fun marked => by cases marked⟩
  rcases State.weigh_received weighed with declined | unheld
  · rw [declined] at counts
    rcases counts with is | is <;> cases is
  · obtain ⟨j, d, held, rfl, -⟩ := law.1 r.member n names
    exact (unheld _ names).resolve_right fun unnamed => State.lookup_none.1 unnamed j d held rfl

/-- After the withdrawal of its member a reply is recorded as received (R72). -/
theorem State.admits_withdrawn (kd : SlotIdx) (d : Callout) : (s.withdraw kd d r).admits c r r.answer false := by
  refine ⟨answers, fun _ n names => ?_, fun marked => by cases marked⟩
  rw [State.engagement_withdraw] at names
  cases names

end Rule

/-! ### The engagement rule applied (R72, R73) -/

/-- The answer and the mark recorded, and the slot that the member is withdrawn from. -/
inductive State.Rules (s : State) (c : Callout) (r : Reply) : Answer → Bool → Option (SlotIdx × Callout) → Prop
  | received (weighed : s.weigh c r = .received) : Rules s c r r.answer false none
  | withdrawing {kd : SlotIdx} {d : Callout} (weighed : s.weigh c r = .withdrawing kd d) : Rules s c r r.answer false (some (kd, d))
  | elsewhere (weighed : s.weigh c r = .elsewhere) : Rules s c r .declined true none

/-- The state in which the reply is recorded: after the withdrawal of its member, if there is one (R72). -/
def State.relieved (s : State) (r : Reply) : Option (SlotIdx × Callout) → State
  | none => s
  | some (kd, d) => s.withdraw kd d r

section Ruled

variable {moved : Option (SlotIdx × Callout)} (rules : s.Rules c r a mark moved)
include rules

theorem State.Rules.answer : (s.weigh c r).answer r = a := by
  cases rules with
  | received weighed | withdrawing weighed | elsewhere weighed => rw [weighed]; rfl

theorem State.Rules.handleReply (found : ∀ b, roomFor c.entries r.member a ≠ .noRoom b) :
    s.handleReply k c r = ((s.relieved r moved).record k c r a mark (roomFor c.entries r.member a), .done) := by
  have outcomes := s.handleReply_cases k c r
  dsimp only at outcomes
  rw [rules.answer] at outcomes
  have recorded := ((outcomes.resolve_left fun full => found _ full.1).resolve_left fun full => found _ full.1).2
  cases rules with
  | received weighed | withdrawing weighed | elsewhere weighed => simpa [weighed, State.relieved] using recorded

/-- The callout of the reply stands in its slot when the reply is recorded. -/
theorem State.Rules.slot (held : s.slots[k] = some c) : (s.relieved r moved).slots[k] = some c := by
  cases rules with
  | received | elsewhere => exact held
  | withdrawing weighed => exact (State.slots_withdraw held weighed).1

/-- What the recording of a reply rests on. -/
theorem State.Rules.admits (law : s.engaged) (distinct : s.numbersDistinct) (answers : r.answer ≠ .withdrawn) :
    (s.relieved r moved).engaged ∧ (s.relieved r moved).numbersDistinct ∧ (s.relieved r moved).admits c r a mark := by
  cases rules with
  | received weighed => exact ⟨law, distinct, State.admits_received answers law weighed⟩
  | elsewhere weighed => exact ⟨law, distinct, State.admits_elsewhere weighed⟩
  | withdrawing weighed =>
    obtain ⟨-, -, names, there, active, -⟩ := State.weigh_withdrawing_held weighed
    exact ⟨State.engaged_withdraw law distinct there active names, State.numbersDistinct_withdraw distinct there r,
      State.admits_withdrawn answers _ _⟩

/-- The reply recorded keeps the engagement law (R66). -/
theorem State.Rules.engaged (law : s.engaged) (distinct : s.numbersDistinct) (held : s.slots[k] = some c)
    (active : c.isActive = true) (answers : r.answer ≠ .withdrawn)
    (found : ∀ b, roomFor c.entries r.member a ≠ .noRoom b) :
    ((s.relieved r moved).record k c r a mark (roomFor c.entries r.member a)).engaged := by
  obtain ⟨law', distinct', admits⟩ := rules.admits law distinct answers
  exact State.engaged_record law' distinct' (rules.slot held) active admits (roomFor_cases _ _ _) found

end Ruled

theorem State.exists_rules (s : State) (c : Callout) (r : Reply) : ∃ a mark moved, s.Rules c r a mark moved := by
  cases weighed : s.weigh c r with
  | received => exact ⟨_, _, _, .received weighed⟩
  | withdrawing => exact ⟨_, _, _, .withdrawing weighed⟩
  | elsewhere => exact ⟨_, _, _, .elsewhere weighed⟩

/-- A reply keeps the engagement law (R66). -/
theorem State.engaged_handleReply (answers : r.answer ≠ .withdrawn) (law : s.engaged) (distinct : s.numbersDistinct)
    (held : s.slots[k] = some c) (active : c.isActive = true) : (s.handleReply k c r).1.engaged := by
  obtain ⟨a, mark, moved, rules⟩ := s.exists_rules c r
  by_cases full : ∃ b, roomFor c.entries r.member a = .noRoom b
  · obtain ⟨b, full⟩ := full
    unfold State.handleReply
    dsimp only
    rw [rules.answer, full]
    cases b with
    | true => exact (State.noticed_raiseNotice _ _ _).listsKept.engaged law
    | false => exact law
  · have found : ∀ b, roomFor c.entries r.member a ≠ .noRoom b := fun b here => full ⟨b, here⟩
    rw [rules.handleReply found]
    exact rules.engaged law distinct held active answers found

theorem State.handleReply_handOffs (s : State) (k : SlotIdx) (c : Callout) (r : Reply) :
    (s.handleReply k c r).1.handOffs = s.handOffs := by
  have recorded : ∀ (u : State) (a : Answer) (mark : Bool) (room : Room), (u.record k c r a mark room).handOffs = u.handOffs :=
    fun u a mark room => (u.storesKept_record k c r a mark room).handOffs
  have outcomes := s.handleReply_cases k c r
  dsimp only at outcomes
  rcases outcomes with ⟨-, h⟩ | ⟨-, h⟩ | ⟨-, (⟨kd, d, -, h⟩ | ⟨-, h⟩ | ⟨-, h⟩)⟩ <;> rw [h]
  · rfl
  · exact (recorded _ _ _ _).trans (s.storesKept_withdraw kd d r).handOffs
  · exact recorded _ _ _ _
  · exact recorded _ _ _ _

/-! ### Every step -/

theorem State.handOffsAnswer_of_eq (same : t.handOffs = s.handOffs) (law : s.handOffsAnswer) : t.handOffsAnswer :=
  fun h on => law h (same ▸ on)

/-- The law of engagements, over the distinct numbers and the answers on their way. -/
theorem State.ListMove.engaged (move : s.ListMove t) (law : s.engaged) (distinct : s.numbersDistinct) (replies : s.handOffsAnswer) :
    t.engaged ∧ t.handOffsAnswer := by
  cases move with
  | kept kept => exact ⟨kept.engaged law, kept.handOffsAnswer replies⟩
  | raised p k c free active new kept =>
    have filled : (({ s with serialCounter := nextNumber c.number }.takeUpPlan c.plan).setSlot k (some c)).engaged :=
      State.engaged_setSlot_new (s := { s with serialCounter := _ }.takeUpPlan c.plan) law free new
    have allocated := State.listsKept_trans (State.listsKept_allocated active p) kept
    exact ⟨allocated.engaged filled, allocated.handOffsAnswer replies⟩
  | escalated k c i held active kept =>
    refine ⟨kept.engaged ((State.listsKept_escalated active i).engaged ?_),
      kept.handOffsAnswer (State.handOffsAnswer_of_eq (s.storesKept_escalateTo k c i).handOffs replies)⟩
    have slots := congrArg State.slots (s.planChanged_frame c i)
    have roster := congrArg State.roster (s.planChanged_frame c i)
    have same : ∀ m, (s.planChanged c i).member m = s.member m := fun m => congrArg (·[m]) roster
    refine State.engaged_settle law distinct held slots (fun m => .inl (congrArg _ (same m))) (fun m names => ?_)
      (fun e listed candidate n names => ?_) active
    · rw [same] at names
      have listed := law.listed distinct held names
      exact listed
    · rw [same, law.candidate held active listed candidate] at names
      exact (Option.some.inj names).symm
  | cancelled k c held kept =>
    have stores := (State.SerialOp.cancel k c held).storesKept
    exact ⟨kept.engaged (State.engaged_cancelCallout law distinct held),
      kept.handOffsAnswer (State.handOffsAnswer_of_eq stores.handOffs replies)⟩
  | departed k c held kept =>
    exact ⟨kept.engaged (State.engaged_depart law distinct held), kept.handOffsAnswer replies⟩
  | released k c held departed kept =>
    exact ⟨kept.engaged (State.engaged_releaseCallout law distinct held departed), kept.handOffsAnswer replies⟩
  | replied u k c r before held active answers kept =>
    have replied := State.engaged_handleReply (answers replies) (before.engaged law) (before.numbersDistinct distinct) held active
    have waiting := State.handOffsAnswer_of_eq (u.handleReply_handOffs k c r) (before.handOffsAnswer replies)
    exact ⟨kept.engaged replied, kept.handOffsAnswer waiting⟩
  | cleared roster slots handOffs =>
    refine ⟨⟨fun m n names => ?_, fun k c held => ?_⟩, fun h on => ?_⟩
    · rw [roster m] at names
      cases names
    · rw [slots k] at held
      cases held
    · rcases handOffs with same | gone
      · exact replies h (same ▸ on)
      · rw [gone] at on
        cases on

/-- Settles O39: a step keeps lists and engagements, or it is one of the operations above. -/
theorem engagementFollowsTheLists : Obligations.EngagementFollowsTheLists := by
  rintro s t ⟨tags, bounded, replies, law⟩ h
  obtain ⟨u, same, move⟩ := step_listMove h
  have distinct := same.numbersDistinct (State.numbersDistinct_of_tags tags)
  obtain ⟨law', replies'⟩ := move.engaged (same.engaged (State.engaged_iff.2 law)) distinct (same.handOffsAnswer replies)
  exact ⟨tagsAndReferencesStayDistinct s t tags h, responderListsStayBounded s t bounded h, replies', State.engaged_iff.1 law'⟩

end Sys2Proof.Machine
end

section
/-! PROOF. The room for a reply and the answer to record (R72, R73, R78, R81). -/

namespace Sys2Proof.Machine

open Sys2Proof

variable {s : State} {k : SlotIdx} {c d : Callout} {r : Reply}

/-- The Declined entry nearest the head leaves (R78). -/
theorem evictOldest_append {before after : List Entry} {e : Entry} (none : ∀ x ∈ before, x.answer ≠ .declined)
    (declined : e.answer = .declined) : evictOldest (before ++ e :: after) = before ++ after := by
  rw [evictOldest, List.eraseP_append_right _ (by simpa using none)]
  exact congrArg _ (List.eraseP_cons_of_pos (decide_eq_true declined))

/-- A member that a callout of no lower priority holds, or one that is not Active, is recorded as Declined (R73). -/
theorem State.weigh_answer_held (distinct : s.tagsDistinct) (held : s.slots[k] = some d)
    (names : (s.member r.member).engagement.callout = some d.number) (other : d.number ≠ c.number)
    (keeps : d.isActive = false ∨ c.priority.toNat ≤ d.priority.toNat) : (s.weigh c r).answer r = .declined := by
  by_cases declined : r.answer = .declined
  · rw [State.weigh_eq_received (.inl declined)]
    exact declined
  · rw [State.weigh_eq_elsewhere distinct declined held names other keeps]
    rfl

/-- Settles O37, row by row of the room table. -/
theorem fullListEvictsTheOldestDeclined : Obligations.FullListEvictsTheOldestDeclined := by
  refine ⟨fun l m a => ⟨roomFor_update, fun fresh => ⟨roomFor_append fresh, fun full => roomFor_dropped fresh full.ge,
    fun full => roomFor_evict fresh full.ge, fun full => roomFor_noRoom fresh full.ge⟩⟩, fun s c r distinct => ⟨?_, fun free => ?_⟩,
    fun _ _ _ => evictOldest_append, fun s k c r full fresh => ⟨fun declined => ?_, fun counts none => ?_⟩⟩
  · rintro ⟨k, d, held, names, other, keeps⟩
    exact State.weigh_answer_held distinct held names other keeps
  · cases weighed : s.weigh c r with
    | received | withdrawing => rfl
    | elsewhere =>
      obtain ⟨-, k, d, other, names, held, keeps⟩ := State.weigh_elsewhere weighed
      exact absurd ⟨k, d, held, names, other, keeps.imp_right Nat.not_lt.1⟩ free
  · simp only [State.handleReply, roomFor_dropped fresh full.ge declined]
  · simp only [State.handleReply, roomFor_noRoom fresh full.ge counts none]
    rfl

end Sys2Proof.Machine
end

section
/-! PROOF. The three ways a reply arrives (R67 to R71, R76). -/

namespace Sys2Proof.Machine

open Sys2Proof

variable {s : State} {p : Port} {k : SlotIdx} {c : Callout} {m : MemberIdx} {n : Half} {a : Answer} {member answer eta : Byte}
  {h : HandOff}

/-! ### The bytes of a reply and the tests on it -/

theorem readAnswer_none (out : 2 ≤ answer.toNat) : readAnswer answer = none := by
  unfold readAnswer
  split
  · rename_i zero
    subst zero
    contradiction
  · split
    · rename_i one
      subst one
      contradiction
    · rfl

theorem readAnswer_some (inside : answer.toNat < 2) :
    readAnswer answer = some (if answer = 0 then .attending else .declined) := by
  rcases byte_zero_or_one inside with rfl | rfl <;> rfl

theorem readEta_eq (b : Byte) : readEta b = if b.getLsbD 7 then some (min 30 (b.toNat % 128)) else none := by
  have minutes : (b.extractLsb' 0 7).toNat = b.toNat % 128 := by simp [BitVec.extractLsb'_toNat]
  rw [readEta, minutes]
  rfl

theorem hasArrived_iff {l : List Entry} : hasArrived l m = true ↔ ∃ e ∈ l, e.member = m ∧ e.answer = .arrived := by
  simp [hasArrived]

/-- A member is paged through one of its groups or by itself (R71); a record that is not Digital has no groups (R3). -/
theorem State.not_paged_iff : s.paged c m = false ↔
    (∀ address groups, (s.member m).pager = .digital address groups → groups &&& c.pagedGroups = 0) ∧ m ∉ c.pagedMembers := by
  rw [State.paged, Bool.or_eq_false_iff, decide_eq_false_iff_not, decide_eq_false_iff_not, not_not]
  refine and_congr_left' ?_
  unfold Member.groups
  cases (s.member m).pager with
  | digital => simp
  | absent | tone => simp

/-! ### Record reply (R68) -/

theorem recordReplyBody_unread (out : 96 ≤ member.toNat ∨ 2 ≤ answer.toNat) :
    recordReplyBody p member n answer eta s = refuse s .range := by
  unfold recordReplyBody
  split
  · rename_i index read
    rcases out with wide | wide
    · rw [readIndex_none wide] at index
      cases index
    · rw [readAnswer_none wide] at read
      cases read
  · rfl

theorem recordReplyBody_unnamed (read : readAnswer answer = some a) (unnamed : (s.member m).inUse = false ∨ s.lookup n = none) :
    recordReplyBody p (byteOf m) n answer eta s = refuse s .state := by
  simp only [recordReplyBody, readIndex_member, read]
  split
  · rename_i inUse
    rw [unnamed.resolve_left fun unused => Bool.false_ne_true (unused.symm.trans inUse)]
  · rfl

theorem recordReplyBody_named (read : readAnswer answer = some a) (inUse : (s.member m).inUse = true)
    (named : s.lookup n = some (k, c)) : recordReplyBody p (byteOf m) n answer eta s =
      if !c.isActive then refuse s .state
      else if a = .attending ∧ hasArrived c.entries m = true then refuse s .state
      else answered (s.handleReply k c ⟨m, a, readEta eta, .port p⟩) := by
  simp only [recordReplyBody, readIndex_member, read, inUse, named, if_true]

/-! ### Mark arrived (R69) -/

theorem markArrivedBody_unread (out : 96 ≤ member.toNat) : markArrivedBody p member n s = refuse s .range := by
  rw [markArrivedBody, readIndex_none out]

theorem markArrivedBody_unnamed (unnamed : (s.member m).inUse = false ∨ s.lookup n = none) :
    markArrivedBody p (byteOf m) n s = refuse s .state := by
  simp only [markArrivedBody, readIndex_member]
  split
  · rename_i inUse
    rw [unnamed.resolve_left fun unused => Bool.false_ne_true (unused.symm.trans inUse)]
  · rfl

theorem markArrivedBody_named (inUse : (s.member m).inUse = true) (named : s.lookup n = some (k, c)) :
    markArrivedBody p (byteOf m) n s =
      if !c.isActive then refuse s .state
      else if hasArrived c.entries m then done s []
      else answered (s.handleReply k c ⟨m, .arrived, none, .port p⟩) := by
  simp only [markArrivedBody, readIndex_member, inUse, named, if_true]

/-! ### The radio hand-off (R67, R70) -/

theorem State.takeHandOff_unnamed (unnamed : s.lookup h.callout = none) : s.takeHandOff h = s := by
  rw [State.takeHandOff, unnamed]

theorem State.takeHandOff_named (named : s.lookup h.callout = some (k, c)) : s.takeHandOff h =
    if c.isActive && s.paged c h.member && !hasArrived c.entries h.member then
      (s.handleReply k c ⟨h.member, h.answer, h.eta, .radio⟩).1
    else s := by
  rw [State.takeHandOff, named]

theorem exec_calloutReply {rest : List HandOff} (released : s.sup.held = false) (waiting : s.handOffs = h :: rest) :
    exec .calloutReply s = .next ({ s with handOffs := rest }.takeHandOff h) := by
  show execCalloutReply s = _
  simp only [execCalloutReply, released, waiting]
  rfl

/-- A hand-off is dropped when one of the three tests fails (R67, R71, R76). -/
theorem State.handOff_dropped : (c.isActive && s.paged c m && !hasArrived c.entries m) = false ↔
    c.isActive = false ∨ (∃ e ∈ c.entries, e.member = m ∧ e.answer = .arrived) ∨
      ((∀ address groups, (s.member m).pager = .digital address groups → groups &&& c.pagedGroups = 0) ∧ m ∉ c.pagedMembers) := by
  rw [Bool.and_eq_false_iff, Bool.and_eq_false_iff, Bool.not_eq_false', hasArrived_iff, State.not_paged_iff, or_assoc,
    or_comm (b := ∃ e ∈ c.entries, _)]

/-- Settles O35, request by request and then the hand-off. -/
theorem repliesAreTakenFromEverySource : Obligations.RepliesAreTakenFromEverySource := by
  intro s
  refine ⟨fun p n ⟨taken, station⟩ => ?_, fun h rest released waiting => ?_⟩
  · have recorded : ∀ member answer eta, exec (.recordReply p member n answer eta) s =
        .next ((recordReplyBody p member n answer eta s).1.respond p (recordReplyBody p member n answer eta s).2) :=
      fun _ _ _ => congrArg Host.Outcome.next (State.takeRequest_station taken station)
    have marked : ∀ member, exec (.markArrived p member n) s =
        .next ((markArrivedBody p member n s).1.respond p (markArrivedBody p member n s).2) :=
      fun _ => congrArg Host.Outcome.next (State.takeRequest_station taken station)
    refine ⟨fun member answer eta out => ?_, fun member out => ?_, fun m answer eta inside => ⟨fun unnamed => ?_,
      fun k c inUse named => ⟨fun inactive => ?_, fun active arrived => ?_, fun active passes => ?_, fun active first => ?_⟩⟩⟩
    · rw [recorded, recordReplyBody_unread out]
      rfl
    · rw [marked, markArrivedBody_unread out]
      rfl
    all_goals have read := readAnswer_some inside
    · rw [recorded, recordReplyBody_unnamed read unnamed, marked, markArrivedBody_unnamed unnamed]
      exact ⟨rfl, rfl⟩
    · rw [recorded, recordReplyBody_named read inUse named, marked, markArrivedBody_named inUse named, inactive]
      exact ⟨rfl, rfl⟩
    · rw [recorded, recordReplyBody_named read inUse named, marked, markArrivedBody_named inUse named, active]
      have arrived := hasArrived_iff.2 arrived
      refine ⟨fun attending => ?_, ?_⟩
      · rw [if_pos attending, arrived]
        rfl
      · rw [arrived]
        rfl
    · have admitted : ¬((if answer = 0 then Answer.attending else .declined) = .attending ∧ hasArrived c.entries m = true) := by
        rintro ⟨attending, arrived⟩
        rcases passes with declined | first
        · rw [declined] at attending
          cases attending
        · exact first (hasArrived_iff.1 arrived)
      rw [recorded, recordReplyBody_named read inUse named, active, readEta_eq, if_neg admitted]
      rfl
    · rw [marked, markArrivedBody_named inUse named, active, Bool.eq_false_iff.2 (mt hasArrived_iff.1 first)]
      rfl
  · rw [exec_calloutReply released waiting]
    refine ⟨fun unnamed => congrArg _ (State.takeHandOff_unnamed unnamed), fun k c named => ?_⟩
    rw [State.takeHandOff_named (s := { s with handOffs := rest }) named]
    exact ⟨fun dropped => congrArg _ (if_neg (Bool.eq_false_iff.1 (State.handOff_dropped.2 dropped))),
      fun passes => congrArg _ (if_pos (Bool.not_eq_false _ ▸ mt State.handOff_dropped.1 passes))⟩

end Sys2Proof.Machine
end

section
/-! PROOF. A reply recorded: the engagement rule, the list, the evaluation and the notices (R65, R72 to R80, R91, R100 to R102). -/

namespace Sys2Proof.Machine

open Sys2Proof

variable {s t u : State} {k : SlotIdx} {c d x : Callout} {r : Reply} {a : Answer} {mark : Bool} {m : MemberIdx} {e : Entry}
  {l l' : List Entry} {y : Engagement} {q : Port} {n : Notice} {room : Room} {eta : Nat}

/-! ### Lists but for their seats -/

/-- A list without its seats, which an evaluation writes anew (R100). -/
def unseatedList (l : List Entry) : List Entry := l.map fun e => { e with seat := .unseated }

theorem members_unseatedList (l : List Entry) : (unseatedList l).map (·.member) = l.map (·.member) := by
  rw [unseatedList, List.map_map]
  rfl

theorem members_of_unseatedList (same : unseatedList l = unseatedList l') : l.map (·.member) = l'.map (·.member) := by
  rw [← members_unseatedList, same, members_unseatedList]

/-- The place of a member in a list is that in the list of members. -/
theorem findIdx_of_members (same : l.map (·.member) = l'.map (·.member)) (m : MemberIdx) :
    (l.findIdx fun e => e.member = m) = l'.findIdx fun e => e.member = m := by
  have place : ∀ l : List Entry, (l.findIdx fun e => e.member = m) = (l.map (·.member)).findIdx fun x => x = m :=
    fun l => (List.findIdx_map l (·.member) fun x => x = m).symm
  rw [place, place, same]

/-- The candidates are the Attending and Arrived entries, with their estimates and the roster's qualifications (R91). -/
theorem candidatesOf_answers (roster : Vector Member 96) (l : List Entry) : candidatesOf roster l =
    (l.filter fun e => e.answer = .attending ∨ e.answer = .arrived).map fun e =>
      ⟨e.member, e.estimate.getD 4095, roster[e.member].quals⟩ := by
  have counted : ∀ e : Entry, e.isCandidate = decide (e.answer = .attending ∨ e.answer = .arrived) := fun e => by
    rw [Bool.eq_iff_iff, decide_eq_true_iff]
    exact Entry.isCandidate_iff
  rw [candidatesOf, funext counted]
  rfl

/-- An evaluation reads no seat (R91). -/
theorem State.evaluated_unseatedList (s : State) (c : Callout) (l : List Entry) :
    s.evaluated { c with entries := unseatedList l } = s.evaluated { c with entries := l } := by
  have candidates : candidatesOf s.roster (unseatedList l) = candidatesOf s.roster l := by
    rw [candidatesOf, unseatedList, List.filter_map, List.map_map]
    rfl
  have seats : ∀ w : Crew, ((unseatedList l).map fun e => { e with seat := seatIn w e }) = l.map fun e => { e with seat := seatIn w e } :=
    fun w => by
      rw [unseatedList, List.map_map]
      rfl
  simp only [State.evaluated, candidates, seats]

theorem State.evaluated_of_unseatedList (same : unseatedList l = unseatedList l') (s : State) (c : Callout) :
    s.evaluated { c with entries := l } = s.evaluated { c with entries := l' } := by
  rw [← State.evaluated_unseatedList s c l, same, State.evaluated_unseatedList]

theorem State.members_evaluated (s : State) (c : Callout) : (s.evaluated c).entries.map (·.member) = c.entries.map (·.member) :=
  (s.evaluated_entries c).1

/-! ### The notices of an evaluation (R80, R102) -/

/-- The Crew status notice of an evaluation that replaced a crew, if it raises one (R102). -/
def crewNews (old : Crew) (c : Callout) : List Notice := if crewChanged old c.crew then [crewNotice .crewStatus c] else []

/-- No notice when status, crew-ready estimate and seated members are the same (R102). -/
theorem crewNews_eq (old : Crew) (c : Callout) : crewNews old c =
    if old.status = c.crew.status ∧ old.ready = c.crew.ready ∧
        ∀ m, (∃ x ∈ old.seats, x.member = some m) ↔ ∃ x ∈ c.crew.seats, x.member = some m then []
    else [crewNotice .crewStatus c] := by
  by_cases changed : crewChanged old c.crew = true
  · exact (if_pos changed).trans (if_neg (mt crewChanged_iff.2 (not_not.2 changed))).symm
  · exact (if_neg changed).trans (if_pos (crewChanged_iff.1 changed)).symm

/-- The Reply notice of a member's entry, with the answer byte and the ETA byte that it carries (R80). -/
def replyNews (c : Callout) (r : Reply) (answer eta : Byte) : Notice :=
  ⟨.reply, c.number, byteOf r.member, answer, eta, r.source.code, byteOf (c.entries.findIdx fun x => x.member = r.member)⟩

theorem State.queue_raiseNotice (running : s.testing = false) (room : (s.port q).queue.length < 32) (route : PortSet) (n : Notice) :
    ((s.raiseNotice route n).port q).queue = (s.port q).queue ++ if route.has q = true then [n] else [] := by
  rw [State.port_raiseNotice]
  split
  · rw [running, PortState.offered_room room]
  · exact (List.append_nil _).symm

theorem State.mem_queue_raiseNotice {route : PortSet} {n' : Notice} (waits : n ∈ ((s.raiseNotice route n').port q).queue) :
    n ∈ (s.port q).queue ∨ route.has q = true ∧ n = n' := by
  rw [State.port_raiseNotice] at waits
  split at waits
  · rename_i on
    unfold PortState.offered at waits
    split at waits
    · exact .inl waits
    · split at waits
      · exact (List.mem_append.1 waits).imp_right fun new => ⟨on, List.mem_singleton.1 new⟩
      · exact .inl waits
  · exact .inl waits

theorem State.mem_queue_raiseCrewStatus {old : Crew} (waits : n ∈ ((s.raiseCrewStatus old c).port q).queue) :
    n ∈ (s.port q).queue ∨ n.kind = .crewStatus := by
  unfold State.raiseCrewStatus at waits
  split at waits
  · refine (State.mem_queue_raiseNotice waits).imp_right ?_
    rintro ⟨-, rfl⟩
    rfl
  · exact .inl waits

/-- A Reply notice is that of an entry of the member (R80). -/
theorem State.raiseReply_cases (s : State) (c : Callout) (m : MemberIdx) (source : ReplySource) :
    (∃ e ∈ c.entries, e.member = m ∧ s.raiseReply c m source = s.raiseNotice s.stations (replyNotice c e source)) ∨
      (∀ e ∈ c.entries, e.member ≠ m) ∧ s.raiseReply c m source = s := by
  unfold State.raiseReply
  split
  · rename_i e found
    have own := List.find?_some (p := fun e : Entry => decide (e.member = m)) found
    exact .inl ⟨e, List.mem_of_find?_eq_some found, of_decide_eq_true own, rfl⟩
  · rename_i none
    exact .inr ⟨fun e listed own => List.find?_eq_none.1 none e listed (decide_eq_true own), rfl⟩

section Told

variable (running : s.testing = false)
include running

theorem State.queue_raiseReply (room : (s.port q).queue.length < 32) (listed : ∃ e ∈ c.entries, e.member = r.member)
    {answer time : Byte} (told : ∀ e ∈ c.entries, e.member = r.member → markedAnswer e.answer e.mark = answer ∧ optByte e.eta = time) :
    ((s.raiseReply c r.member r.source).port q).queue =
      (s.port q).queue ++ if (s.port q).cls = .station then [replyNews c r answer time] else [] := by
  rcases s.raiseReply_cases c r.member r.source with ⟨e, he, own, raised⟩ | ⟨fresh, -⟩
  · obtain ⟨answers, times⟩ := told e he own
    have notice : replyNotice c e r.source = replyNews c r answer time := by
      rw [replyNotice, answers, times, own]
      rfl
    rw [raised, State.queue_raiseNotice running room, notice]
    exact congrArg _ (if_congr State.stations_has rfl rfl)
  · obtain ⟨e, he, own⟩ := listed
    exact absurd own (fresh e he)

theorem State.queue_raiseCrewStatus (room : (s.port q).queue.length < 32) (old : Crew) (c : Callout) :
    ((s.raiseCrewStatus old c).port q).queue =
      (s.port q).queue ++ if (s.port q).cls = .station ∨ c.origins.has q = true then crewNews old c else [] := by
  have route : (s.interested c).has q = true ↔ (s.port q).cls = .station ∨ c.origins.has q = true := by
    rw [State.interested, PortSet.has_union, State.stations_has, or_comm]
  unfold State.raiseCrewStatus crewNews
  split
  · rw [State.queue_raiseNotice running room]
    exact congrArg _ (if_congr route rfl rfl)
  · rw [ite_self, List.append_nil]

end Told

theorem State.port_noticed (told : s.noticed t) (q : Port) : (t.port q).cls = (s.port q).cls := (told.2 q).1

theorem State.testing_noticed (told : s.noticed t) : t.testing = s.testing := by
  have testing := congrArg State.testing told.1
  exact testing

/-! ### A list revised -/

section Revise

variable (s k c r l y)

theorem State.frame_revise :
    { s.revise k c r l y with roster := s.roster, slots := s.slots, ports := s.ports } = s := by
  have told := (s.revise_effect k c r l y).1
  have settled := (State.settle_frame (s.engage r.member y) k (s.evaluated { c with entries := l })).1
  generalize (s.engage r.member y).settle k (s.evaluated { c with entries := l }) = u at told settled
  generalize s.revise k c r l y = t at told ⊢
  have whole := congrArg (fun v : State => { v with roster := s.roster, slots := s.slots, ports := s.ports }) told
  have rest := congrArg (fun v : State => { v with roster := s.roster, slots := s.slots, ports := s.ports }) settled
  exact whole.trans rest

theorem State.fields_revise (m : MemberIdx) :
    { (s.revise k c r l y).member m with engagement := (s.member m).engagement } = s.member m := by
  rw [State.member_revise]
  have settled := (s.engage r.member y).settle_engagements k ((s.engage r.member y).evaluated { c with entries := l }) m
  have put := congrArg (fun x : Member => { x with engagement := (s.member m).engagement }) settled
  refine Eq.trans put ?_
  rw [State.member_engage]
  split <;> rfl

variable {s k c r l y}

/-- The other members stay engaged to the callout they were engaged to, where the candidates are engaged to this one (R101). -/
theorem State.callout_revise (other : m ≠ r.member)
    (counted : ∀ e ∈ l, e.member = m → e.isCandidate = true → (s.member m).engagement.callout = some c.number) :
    ((s.revise k c r l y).member m).engagement.callout = (s.member m).engagement.callout := by
  by_cases candidate : ∃ e ∈ l, e.member = m ∧ e.isCandidate = true
  · obtain ⟨w, gives⟩ := Crew.seatFor_gives ((s.engage r.member y).evaluated { c with entries := l }).crew m c.number
    rw [State.member_revise, State.member_settle_evaluated (c := { c with entries := l }) _ _ gives, if_pos candidate]
    obtain ⟨e, listed, own, counts⟩ := candidate
    exact (Seat.engagement_callout gives).trans (counted e listed own counts).symm
  · rw [State.member_revise_uncounted fun e listed counts own => candidate ⟨e, listed, own, counts⟩, State.member_engage, if_neg other]

/-- The notices of a revision, port by port: the Reply notice, then a Crew status notice (R80, R102). -/
theorem State.queue_revise (running : s.testing = false) (room : (s.port q).queue.length ≤ 30)
    (own : ∃ e ∈ l, e.member = r.member) {answer time : Byte}
    (told : ∀ e ∈ l, e.member = r.member → markedAnswer e.answer e.mark = answer ∧ optByte e.eta = time) :
    ((s.revise k c r l y).port q).queue = (s.port q).queue ++
      (if (s.port q).cls = .station then [replyNews { c with entries := l } r answer time] else []) ++
      if (s.port q).cls = .station ∨ c.origins.has q = true then crewNews c.crew (s.evaluated { c with entries := l }) else [] := by
  have settled := (State.settle_frame (s.engage r.member y) k (s.evaluated { c with entries := l })).1
  have ports := congrArg State.ports settled
  have testing := congrArg State.testing settled
  unfold State.revise
  dsimp only
  generalize (s.engage r.member y).settle k (s.evaluated { c with entries := l }) = u at ports testing
  have port : u.port q = s.port q := congrArg (fun x : Ports => x.get q) ports
  have running : u.testing = false := testing.trans running
  have place := findIdx_of_members (s.members_evaluated { c with entries := l }) r.member
  have news : replyNews (s.evaluated { c with entries := l }) r answer time = replyNews { c with entries := l } r answer time := by
    rw [replyNews, place]
    rfl
  have reply : ((u.raiseReply (s.evaluated { c with entries := l }) r.member r.source).port q).queue = (s.port q).queue ++
      if (s.port q).cls = .station then [replyNews { c with entries := l } r answer time] else [] := by
    rw [← port] at room ⊢
    rw [← news]
    refine State.queue_raiseReply running (by omega) ?_ fun e listed here => ?_
    · obtain ⟨e, listed, here⟩ := own
      exact ⟨_, State.mem_evaluated_entries.2 ⟨e, listed, rfl⟩, here⟩
    · obtain ⟨x, before, rfl⟩ := State.mem_evaluated_entries.1 listed
      exact told x before here
  have noticed := u.noticed_raiseReply (s.evaluated { c with entries := l }) r.member r.source
  have short : ((u.raiseReply (s.evaluated { c with entries := l }) r.member r.source).port q).queue.length < 32 := by
    rw [reply, List.length_append]
    split <;> simp only [List.length_singleton, List.length_nil] <;> omega
  rw [State.queue_raiseCrewStatus ((State.testing_noticed noticed).trans running) short, reply, State.port_noticed noticed, port]
  rfl

/-- At a Dispatch-class port the notices of a revision are Crew status notices (R80, R102). -/
theorem State.mem_queue_revise (dispatch : (s.port q).cls = .dispatch) (waits : n ∈ ((s.revise k c r l y).port q).queue) :
    n ∈ (s.port q).queue ∨ n.kind = .crewStatus := by
  have ports := congrArg State.ports (State.settle_frame (s.engage r.member y) k (s.evaluated { c with entries := l })).1
  unfold State.revise at waits
  dsimp only at waits
  generalize (s.engage r.member y).settle k (s.evaluated { c with entries := l }) = u at ports waits
  have port : u.port q = s.port q := congrArg (fun x : Ports => x.get q) ports
  rw [← port] at dispatch ⊢
  refine (State.mem_queue_raiseCrewStatus waits).imp_left fun waits => ?_
  rcases u.raiseReply_cases (s.evaluated { c with entries := l }) r.member r.source with ⟨e, -, -, raised⟩ | ⟨-, same⟩
  · rw [raised] at waits
    refine (State.mem_queue_raiseNotice waits).resolve_right fun new => ?_
    have station := State.stations_has.1 new.1
    rw [dispatch] at station
    cases station
  · rwa [same] at waits

end Revise

/-! ### What a reply leaves as it was -/

/-- A state follows another with nothing but engagements, slots, queues and marks changed. -/
structure State.rewritten (s t : State) : Prop where
  frame : { t with roster := s.roster, slots := s.slots, ports := s.ports } = s
  fields : ∀ m, { t.member m with engagement := (s.member m).engagement } = s.member m
  classes : ∀ q, (t.port q).cls = (s.port q).cls

theorem State.rewritten_refl (s : State) : s.rewritten s := ⟨rfl, fun _ => rfl, fun _ => rfl⟩

theorem State.rewritten_trans (h : s.rewritten t) (g : t.rewritten u) : s.rewritten u := by
  refine ⟨?_, fun m => ?_, fun q => (g.classes q).trans (h.classes q)⟩
  · have outer := congrArg (fun v : State => { v with roster := s.roster, slots := s.slots, ports := s.ports }) g.frame
    exact outer.trans h.frame
  · have outer := congrArg (fun x : Member => { x with engagement := (s.member m).engagement }) (g.fields m)
    exact outer.trans (h.fields m)

theorem State.rewritten_revise (s : State) (k : SlotIdx) (c : Callout) (r : Reply) (l : List Entry) (y : Engagement) :
    s.rewritten (s.revise k c r l y) := by
  refine ⟨s.frame_revise k c r l y, s.fields_revise k c r l y, fun q => ?_⟩
  have ports := congrArg State.ports (State.settle_frame (s.engage r.member y) k (s.evaluated { c with entries := l })).1
  have same := State.port_noticed (s.revise_effect k c r l y) q
  exact same.trans (congrArg (fun x : Ports => (x.get q).cls) ports)

section Rewritten

variable (same : s.rewritten t)
include same

theorem State.rewritten.testing : t.testing = s.testing := by
  have testing := congrArg State.testing same.frame
  exact testing

theorem State.rewritten.evaluated (x : Callout) : t.evaluated x = s.evaluated x := by
  have plans := congrArg State.plans same.frame
  refine State.evaluated_congr ?_ (fun m => ?_) x
  · exact plans
  · have quals := congrArg Member.quals (same.fields m)
    exact quals

end Rewritten

/-! ### The withdrawal before a recording -/

theorem optByte_eq (o : Option Nat) : optByte o = byteOf (o.getD 255) := by cases o <;> rfl

/-- The notices of a withdrawal at a port, if there is one (R72, R80). -/
def State.withdrawalNews (s : State) (r : Reply) (q : Port) : Option (SlotIdx × Callout) → List Notice
  | none => []
  | some (_, d) =>
    let left := { d with entries := withdrawEntry d.entries r.member }
    (if (s.port q).cls = .station then
      [replyNews left r (markedAnswer .withdrawn (d.entries.any fun e => e.member = r.member && e.mark)) 255] else []) ++
    (if (s.port q).cls = .station ∨ d.origins.has q = true then crewNews d.crew (s.evaluated left) else [])

theorem length_crewNews (old : Crew) (c : Callout) : (crewNews old c).length ≤ 1 := by
  unfold crewNews
  split <;> simp

theorem State.length_withdrawalNews (s : State) (r : Reply) (q : Port) (moved : Option (SlotIdx × Callout)) :
    (s.withdrawalNews r q moved).length ≤ 2 := by
  have given : ∀ (p : Prop) [Decidable p] (l : List Notice), l.length ≤ 1 → (if p then l else []).length ≤ 1 := fun p _ l few => by
    split
    · exact few
    · exact Nat.zero_le 1
  match moved with
  | none => exact Nat.zero_le 2
  | some (_, d) =>
    exact (List.length_append ..).le.trans (Nat.add_le_add (given _ _ le_rfl) (given _ _ (length_crewNews _ _)))

/-- A list without repeats holds one mark for a member (R64). -/
theorem any_mark (once : (l.map (·.member)).Nodup) (listed : e ∈ l) : (l.any fun x => x.member = e.member && x.mark) = e.mark := by
  rw [Bool.eq_iff_iff, List.any_eq_true]
  refine ⟨fun ⟨x, hx, marks⟩ => ?_, fun marks => ⟨e, listed, by simp [marks]⟩⟩
  rw [Bool.and_eq_true, decide_eq_true_iff] at marks
  obtain rfl := List.inj_on_of_nodup_map once hx listed marks.1
  exact marks.2

theorem State.rewritten_relieved (s : State) (r : Reply) (moved : Option (SlotIdx × Callout)) : s.rewritten (s.relieved r moved) :=
  match moved with
  | none => s.rewritten_refl
  | some (kd, d) => s.rewritten_revise kd d r _ .free

theorem State.mem_queue_relieved {moved : Option (SlotIdx × Callout)} (dispatch : (s.port q).cls = .dispatch)
    (waits : n ∈ ((s.relieved r moved).port q).queue) : n ∈ (s.port q).queue ∨ n.kind = .crewStatus :=
  match moved with
  | none => .inl waits
  | some (_, _) => State.mem_queue_revise dispatch waits

theorem State.slot_unmoved {moved : Option (SlotIdx × Callout)} {j : SlotIdx} (elsewhere : ∀ d, moved ≠ some (j, d)) :
    (s.relieved r moved).slots[j] = s.slots[j] :=
  match moved with
  | none => rfl
  | some (kd, d) =>
    (congrArg (·[j]) (s.withdraw_slots kd d r)).trans (s.slots_setSlot_other _ fun here => elsewhere d (here ▸ rfl))

section Moved

variable {moved : Option (SlotIdx × Callout)} (rules : s.Rules c r a mark moved)
include rules

/-- The callout that the member is withdrawn from. -/
theorem State.Rules.moved_held {kd : SlotIdx} (is : moved = some (kd, d)) :
    r.answer ≠ .declined ∧ a = r.answer ∧ (s.member r.member).engagement.callout = some d.number ∧ s.slots[kd] = some d ∧
      d.isActive = true ∧ d.number ≠ c.number := by
  cases rules with
  | received | elsewhere => cases is
  | withdrawing weighed =>
    cases is
    obtain ⟨counts, other, names, held, active, -⟩ := State.weigh_withdrawing_held weighed
    exact ⟨counts, rfl, names, held, active, other⟩

/-- A Declined answer withdraws its member from nowhere (R72). -/
theorem State.Rules.unmoved (declined : a = .declined) : moved = none := by
  cases is : moved with
  | none => rfl
  | some x =>
    obtain ⟨counts, same, -⟩ := rules.moved_held (kd := x.1) (d := x.2) is
    exact absurd (same.symm.trans declined) counts

theorem State.Rules.slot_moved {kd : SlotIdx} (is : moved = some (kd, d)) : (s.relieved r moved).slots[kd] =
    some (s.evaluated { d with entries := withdrawEntry d.entries r.member }) := by
  subst is
  exact (congrArg (·[kd]) (s.withdraw_slots kd d r)).trans (s.slots_setSlot_self kd _)

/-- The other members stay engaged where they were (R72). -/
theorem State.Rules.callout_relieved (law : s.engaged) (other : m ≠ r.member) :
    ((s.relieved r moved).member m).engagement.callout = (s.member m).engagement.callout := by
  cases is : moved with
  | none => rfl
  | some x =>
    obtain ⟨-, -, -, held, active, -⟩ := rules.moved_held (kd := x.1) (d := x.2) is
    refine State.callout_revise other fun e listed own counts => ?_
    subst own
    exact law.candidate held active ((mem_withdrawEntry_other other).1 listed) counts

theorem State.Rules.queue_relieved (bounded : s.listsBounded) (law : s.engaged) (distinct : s.numbersDistinct)
    (running : s.testing = false) (room : (s.port q).queue.length ≤ 28) :
    ((s.relieved r moved).port q).queue = (s.port q).queue ++ s.withdrawalNews r q moved ∧
      ((s.relieved r moved).port q).queue.length ≤ 30 := by
  cases is : moved with
  | none => exact ⟨(List.append_nil _).symm, room.trans (by decide)⟩
  | some x =>
    obtain ⟨kd, d⟩ := x
    obtain ⟨-, -, names, held, -⟩ := rules.moved_held is
    have queue : ((s.relieved r (some (kd, d))).port q).queue = (s.port q).queue ++ s.withdrawalNews r q (some (kd, d)) := by
      have own : ∃ e ∈ withdrawEntry d.entries r.member, e.member = r.member := by
        obtain ⟨e, listed, own, -⟩ := law.listed distinct held names
        exact ⟨_, mem_withdrawEntry.2 ⟨e, listed, if_pos own⟩, own⟩
      refine (State.queue_revise (s := s) (k := kd) (c := d) (y := .free) running (by omega) own fun e listed here => ?_).trans
        (List.append_assoc _ _ _)
      obtain ⟨x, before, rfl⟩ := mem_withdrawEntry.1 listed
      split at here
      · rename_i this
        rw [if_pos this, ← this, any_mark (bounded kd d held).2 before]
        exact ⟨rfl, rfl⟩
      · exact absurd here ‹_›
    refine ⟨queue, ?_⟩
    rw [queue, List.length_append]
    have few := s.length_withdrawalNews r q (some (kd, d))
    omega

end Moved

/-! ### The list with the reply in it -/

/-- The list that a reply leaves: its entry updated in place, appended at the tail, or appended after the Declined entry nearest the
head has left a full list (R75, R77, R78). -/
inductive ListedIn (l : List Entry) (m : MemberIdx) (a : Answer) (entry : Nat → Entry) (now : Nat) : List Entry → Prop
  | updated (listed : ∃ e ∈ l, e.member = m) : ListedIn l m a entry now (l.map fun e => if e.member = m then entry e.first else e)
  | appended (fresh : ∀ e ∈ l, e.member ≠ m) (short : l.length < 24) : ListedIn l m a entry now (l ++ [entry now])
  | evicted (fresh : ∀ e ∈ l, e.member ≠ m) (full : l.length = 24) (counts : a ≠ .declined) (before : List Entry) (e : Entry)
      (after : List Entry) (split : l = before ++ e :: after) (none : ∀ x ∈ before, x.answer ≠ .declined)
      (declined : e.answer = .declined) : ListedIn l m a entry now (before ++ after ++ [entry now])

/-- There is room for the reply, and its list is the one recorded but for the seats. -/
theorem ListedIn.recorded {listed : List Entry}
    (is : ListedIn c.entries r.member a (newEntry r a mark eta c.elapsed · .unseated) c.elapsed listed) :
    (∀ b, roomFor c.entries r.member a ≠ .noRoom b) ∧
      unseatedList (recordIn c r a mark eta (roomFor c.entries r.member a)) = unseatedList listed := by
  cases is with
  | updated listed =>
    rw [roomFor_update listed]
    refine ⟨nofun, ?_⟩
    show unseatedList (updateEntry _ _ _ _ _ _) = _
    rw [unseatedList, unseatedList, updateEntry, List.map_map, List.map_map]
    refine List.map_congr_left fun e _ => ?_
    rw [Function.comp_apply, Function.comp_apply]
    split <;> rfl
  | appended fresh short =>
    rw [roomFor_append fresh short]
    exact ⟨nofun, rfl⟩
  | evicted fresh full counts before e after split none declined =>
    rw [roomFor_evict fresh full.ge counts ⟨e, by rw [split]; exact List.mem_append_right _ List.mem_cons_self, declined⟩]
    refine ⟨nofun, ?_⟩
    show unseatedList (appendEntry (evictOldest c.entries) _ _ _ _ _) = _
    rw [split, evictOldest_append none declined]
    rfl

/-! ### The state that a reply leaves -/

/-- The list of a reply recorded where there is room for it (R75, R77, R78). -/
def State.listWith (s : State) (c : Callout) (r : Reply) (a : Answer) (mark : Bool) : List Entry :=
  recordIn c r a mark (s.member r.member).defaultEta (roomFor c.entries r.member a)

/-- The callout of a reply recorded, its crew evaluated (R70 stage 6). -/
def State.calloutWith (s : State) (c : Callout) (r : Reply) (a : Answer) (mark : Bool) : Callout :=
  s.evaluated { c with entries := s.listWith c r a mark }

/-- The state after the withdrawal, if there is one, and the recording (R70 stages 6 and 7). -/
def State.replied (s : State) (k : SlotIdx) (c : Callout) (r : Reply) (a : Answer) (mark : Bool)
    (moved : Option (SlotIdx × Callout)) : State :=
  (s.relieved r moved).record k c r a mark (roomFor c.entries r.member a)

theorem State.own_listWith (found : ∀ b, roomFor c.entries r.member a ≠ .noRoom b) :
    ∃ e ∈ s.listWith c r a mark, e.member = r.member := recordIn_own (roomFor_cases ..) found

section Replied

variable {moved : Option (SlotIdx × Callout)}

theorem State.replied_eq_revise : s.replied k c r a mark moved = (s.relieved r moved).revise k c r (s.listWith c r a mark)
    (replyEngagement c.number a mark ((s.relieved r moved).member r.member).engagement) := by
  have eta := congrArg Member.defaultEta ((s.rewritten_relieved r moved).fields r.member)
  have eta : ((s.relieved r moved).member r.member).defaultEta = (s.member r.member).defaultEta := eta
  rw [State.replied, State.record_eq, eta]
  rfl

theorem State.rewritten_replied : s.rewritten (s.replied k c r a mark moved) := by
  rw [State.replied_eq_revise]
  exact State.rewritten_trans (s.rewritten_relieved r moved) (State.rewritten_revise ..)

theorem State.slots_replied :
    (s.replied k c r a mark moved).slots = (s.relieved r moved).slots.set k (some (s.calloutWith c r a mark)) := by
  rw [State.replied_eq_revise, State.slots_revise, (s.rewritten_relieved r moved).evaluated]
  rfl

theorem State.slot_replied : (s.replied k c r a mark moved).slots[k] = some (s.calloutWith c r a mark) := by
  simp only [State.slots_replied]
  exact State.slots_setSlot_self (s.relieved r moved) k _

theorem State.otherSlot_replied {j : SlotIdx} (other : j ≠ k) :
    (s.replied k c r a mark moved).slots[j] = (s.relieved r moved).slots[j] := by
  simp only [State.slots_replied]
  exact State.slots_setSlot_other (s.relieved r moved) _ other

theorem State.mem_queue_replied (dispatch : (s.port q).cls = .dispatch) (waits : n ∈ ((s.replied k c r a mark moved).port q).queue) :
    n ∈ (s.port q).queue ∨ n.kind = .crewStatus := by
  rw [State.replied_eq_revise] at waits
  refine (State.mem_queue_revise ?_ waits).elim (State.mem_queue_relieved dispatch) .inr
  rw [(s.rewritten_relieved r moved).classes, dispatch]

variable (rules : s.Rules c r a mark moved) (found : ∀ b, roomFor c.entries r.member a ≠ .noRoom b)
include rules

/-- The callout that the member is withdrawn from, another than the reply's (R72). -/
theorem State.Rules.movedSlot_replied (held : s.slots[k] = some c) {kd : SlotIdx} (is : moved = some (kd, d)) :
    (s.replied k c r a mark moved).slots[kd] = some (s.evaluated { d with entries := withdrawEntry d.entries r.member }) := by
  obtain ⟨-, -, -, there, -, other⟩ := rules.moved_held is
  rw [State.otherSlot_replied, rules.slot_moved is]
  rintro rfl
  rw [held] at there
  cases there
  exact other rfl

/-- The other members stay engaged to the callouts they were engaged to. -/
theorem State.Rules.callout_replied (law : s.engaged) (held : s.slots[k] = some c) (active : c.isActive = true) (other : m ≠ r.member) :
    ((s.replied k c r a mark moved).member m).engagement.callout = (s.member m).engagement.callout := by
  rw [State.replied_eq_revise, State.callout_revise other, rules.callout_relieved law other]
  rintro e listed rfl counts
  rw [rules.callout_relieved law other]
  exact law.candidate held active (mem_of_recordIn listed other) counts

include found

/-- A Declined answer frees its member, if it was engaged to the callout and the mark is clear (R79). -/
theorem State.Rules.engagement_declined (declined : a = .declined) :
    ((s.replied k c r a mark moved).member r.member).engagement =
      if mark = false ∧ (s.member r.member).engagement.callout = some c.number then .free else (s.member r.member).engagement := by
  rw [State.replied_eq_revise, State.member_revise_uncounted, State.member_engage_self, rules.unmoved declined, declined]
  · exact replyEngagement_declined _
  · intro e listed counts own
    have answer := answer_of_recordIn (roomFor_cases ..) found listed own
    rw [Entry.isCandidate_iff, answer, declined] at counts
    rcases counts with is | is <;> cases is

/-- The notices of a reply, port by port and in their order (R80). -/
theorem State.Rules.queue_replied (bounded : s.listsBounded) (law : s.engaged) (distinct : s.numbersDistinct)
    (running : s.testing = false) (room : (s.port q).queue.length ≤ 28) :
    ((s.replied k c r a mark moved).port q).queue = (s.port q).queue ++ s.withdrawalNews r q moved ++
      (if (s.port q).cls = .station then [replyNews { c with entries := s.listWith c r a mark } r (markedAnswer a mark)
        (optByte (etaOf a r.eta))] else []) ++
      if (s.port q).cls = .station ∨ c.origins.has q = true then crewNews c.crew (s.calloutWith c r a mark) else [] := by
  have same := s.rewritten_relieved r moved
  obtain ⟨before, short⟩ := rules.queue_relieved bounded law distinct running room
  rw [State.replied_eq_revise, State.queue_revise (answer := markedAnswer a mark) (time := optByte (etaOf a r.eta))
    (same.testing.trans running) short (State.own_listWith found), before, same.classes, same.evaluated]
  · rfl
  · intro e listed own
    obtain ⟨_, _, rfl⟩ := newEntry_of_recordIn (roomFor_cases ..) found listed own
    exact ⟨rfl, rfl⟩

variable (law : s.engaged) (distinct : s.numbersDistinct) (held : s.slots[k] = some c) (active : c.isActive = true)
  (answers : r.answer ≠ .withdrawn)
include law distinct held active answers

theorem State.Rules.engaged_replied : (s.replied k c r a mark moved).engaged := rules.engaged law distinct held active answers found

/-- An Attending or Arrived answer engages its member to the callout (R74). -/
theorem State.Rules.engagement_counts (counts : a = .attending ∨ a = .arrived) :
    ((s.replied k c r a mark moved).member r.member).engagement.callout = some c.number := by
  obtain ⟨e, listed, own⟩ := recordIn_own (mark := mark) (eta := (s.member r.member).defaultEta) (roomFor_cases ..) found
  have candidate : e.isCandidate = true := by
    rw [Entry.isCandidate_iff, answer_of_recordIn (roomFor_cases ..) found listed own]
    exact counts
  have engaged := rules.engaged_replied found law distinct held active answers
  have named := engaged.candidate State.slot_replied active (State.mem_evaluated_entries.2 ⟨e, listed, rfl⟩) candidate
  rw [← own]
  exact named

end Replied

/-- The seats of an Active callout engage its members (R101). -/
theorem State.engaged.seats (law : s.engaged) (held : s.slots[k] = some c) (active : c.isActive = true) (listed : e ∈ c.entries) :
    (∀ role, e.seat = .seated role → (s.member e.member).engagement = .assigned c.number) ∧
      (e.seat = .standby → (s.member e.member).engagement = .responding c.number) := by
  obtain ⟨-, gives⟩ := law.2 k c held active e listed
  exact ⟨fun role seat => gives _ (by rw [seat]; rfl), fun seat => gives _ (by rw [seat]; rfl)⟩

/-- Settles O36: the rule and the room give the recording; the law before and after it gives the engagements. -/
theorem replyIsRecordedByTheEngagementRule : Obligations.ReplyIsRecordedByTheEngagementRule := by
  rintro s k c r a mark moved listed ⟨tags, bounded, -, laws⟩ held active answers engagement elsewhere weighs etaHeld entry lists t
    evaluated left place crewTold
  have law := State.engaged_iff.2 laws
  have distinct := State.numbersDistinct_of_tags tags
  have rules : s.Rules c r a mark moved := by
    rcases weighs with ⟨rfl, rfl, rfl, unheld⟩ | ⟨rfl, rfl, counts, kd, d, rfl, ⟨there, names, other⟩, activeThere, below⟩ |
      ⟨rfl, rfl, rfl, counts, kd, d, ⟨there, names, other⟩, keeps⟩
    · exact .received (State.weigh_eq_received unheld)
    · exact .withdrawing (State.weigh_eq_withdrawing tags counts there names other activeThere below)
    · exact .elsewhere (State.weigh_eq_elsewhere tags counts there names other keeps)
  have new : entry = (newEntry r a mark (s.member r.member).defaultEta c.elapsed · .unseated) := by
    funext first
    cases a <;> rfl
  have lists : ListedIn c.entries r.member a entry c.elapsed listed := by
    rcases lists with ⟨own, rfl⟩ | ⟨fresh, short, rfl⟩ | ⟨fresh, full, counts, before, e, after, split, none, declined, rfl⟩
    · exact .updated own
    · exact .appended fresh short
    · exact .evicted fresh full counts before e after split none declined
  rw [new] at lists
  obtain ⟨found, seats⟩ := lists.recorded
  have recorded : s.handleReply k c r = (s.replied k c r a mark moved, .done) := rules.handleReply found
  have is : t = s.replied k c r a mark moved := congrArg Prod.fst recorded
  have evaluation : ∀ x l, evaluated x l = s.evaluated { x with entries := l } := fun x l => by
    have assembled : (s.evaluated { x with entries := l }).crew = (evaluated x l).crew := by
      show assemble _ (candidatesOf s.roster l) = _
      rw [candidatesOf_answers]
      rfl
    have seated : (s.evaluated { x with entries := l }).entries = (evaluated x l).entries := by
      show (l.map fun e => { e with seat := seatIn (s.evaluated { x with entries := l }).crew e }) = _
      rw [assembled]
      exact List.map_congr_left fun e _ => congrArg (fun z => { e with seat := z }) (if_congr Entry.isCandidate_iff rfl rfl)
    exact (congr (congrArg (fun w l => { x with crew := w, entries := l }) assembled) seated).symm
  have told : ∀ x y, crewTold x y = crewNews x.crew y := fun x y => (crewNews_eq x.crew y).symm
  have after : evaluated c listed = s.calloutWith c r a mark :=
    (evaluation c listed).trans (State.evaluated_of_unseatedList seats s c).symm
  have afterThere : ∀ d, evaluated d (left d) = s.evaluated { d with entries := withdrawEntry d.entries r.member } :=
    fun d => evaluation d _
  have engaged := rules.engaged_replied found law distinct held active answers
  rw [is, after]
  refine ⟨congrArg Prod.snd recorded, State.slot_replied, fun j other elsewhere =>
    (State.otherSlot_replied other).trans (State.slot_unmoved elsewhere), fun kd d moved => ?_,
    fun counts => ?_, rules.engagement_declined found, ?_,
    fun m => ⟨State.rewritten_replied.fields m, rules.callout_replied law held active⟩, fun q running room => ?_, fun q dispatch n waits => State.mem_queue_replied dispatch waits, State.rewritten_replied.frame⟩
  · rw [afterThere]
    exact rules.movedSlot_replied held moved
  · have names := rules.engagement_counts found law distinct held active answers counts
    exact Engagement.isTo_iff.1 (decide_eq_true names)
  · rintro x (rfl | ⟨kd, d, moved, rfl⟩) e listed
    · exact engaged.seats State.slot_replied active listed
    · rw [afterThere] at listed ⊢
      obtain ⟨-, -, -, -, activeThere, -⟩ := rules.moved_held moved
      exact engaged.seats (rules.movedSlot_replied held moved) activeThere listed
  · have placed : ∀ {l l' : List Entry}, l.map (·.member) = l'.map (·.member) → place l = place l' := fun same =>
      congrArg byteOf (findIdx_of_members same r.member)
    have news : replyNews { c with entries := s.listWith c r a mark } r (markedAnswer a mark) (optByte (etaOf a r.eta)) =
        ⟨.reply, c.number, byteOf r.member, markedAnswer a mark, byteOf (etaHeld.getD 255), r.source.code, place listed⟩ := by
      rw [← placed (members_of_unseatedList seats), ← optByte_eq]
      rfl
    rw [rules.queue_replied found bounded law distinct running room, news, told]
    refine congrArg (· ++ _) (congrArg (· ++ _) (congrArg (_ ++ ·) ?_))
    cases moved with
    | none => rfl
    | some x =>
      obtain ⟨kd, d⟩ := x
      have news : replyNews { d with entries := withdrawEntry d.entries r.member } r
          (markedAnswer .withdrawn (d.entries.any fun e => e.member = r.member && e.mark)) 255 =
          ⟨.reply, d.number, byteOf r.member, markedAnswer .withdrawn (d.entries.any fun e => e.member = r.member && e.mark), 255,
            r.source.code, place d.entries⟩ := by
        rw [← placed (withdrawEntry_members d.entries r.member)]
        rfl
      simp only [State.withdrawalNews, news, told, afterThere]

end Sys2Proof.Machine
end

section
/-! PROOF. The rank and role orders of an evaluation, and that no order of the list counts (R88, R91, R92, R106). -/

namespace Sys2Proof.Machine

open Sys2Proof

variable {t : Template} {l l' : List Candidate}

/-! ### Sorting with the given order -/

theorem insertBy_ordered {α : Type} {lt : α → α → Bool} {le : α → α → Prop} (trans : ∀ x y z, le x y → le y z → le x z) {x : α}
    {l : List α} (ordered : l.Pairwise le) (above : ∀ y ∈ l, lt y x = true → le y x) (below : ∀ y ∈ l, lt y x = false → le x y) :
    (insertBy lt x l).Pairwise le := by
  induction ordered with
  | nil => exact List.pairwise_singleton _ _
  | @cons y ys first rest ih =>
    have inner := ih (fun z hz => above z (.tail _ hz)) fun z hz => below z (.tail _ hz)
    unfold insertBy
    split
    · rename_i less
      refine .cons (fun z hz => ?_) inner
      rcases List.mem_cons.1 ((insertBy_perm lt x ys).mem_iff.1 hz) with rfl | hz
      · exact above y List.mem_cons_self less
      · exact first z hz
    · rename_i notLess
      have front := below y List.mem_cons_self (Bool.eq_false_iff.2 notLess)
      refine .cons (fun z hz => ?_) (.cons first rest)
      rcases List.mem_cons.1 hz with rfl | hz
      · exact front
      · exact trans _ _ _ front (first z hz)

/-- A sort is stable: what holds of every pair in the order given helps to decide how the pair stands in the order sorted. -/
theorem sortBy_ordered {α : Type} {lt : α → α → Bool} {given le : α → α → Prop} (trans : ∀ x y z, le x y → le y z → le x z)
    (above : ∀ x y, given x y → lt y x = true → le y x) (below : ∀ x y, given x y → lt y x = false → le x y) {l : List α}
    (stands : l.Pairwise given) : (sortBy lt l).Pairwise le := by
  induction stands with
  | nil => exact .nil
  | @cons x xs first rest ih =>
    have placed : ∀ y ∈ sortBy lt xs, given x y := fun y hy => first y ((mem_sortBy lt xs y).1 hy)
    exact insertBy_ordered trans ih (fun y hy => above x y (placed y hy)) fun y hy => below x y (placed y hy)

/-! ### Rank order (R91) -/

/-- One candidate ranks before another: by estimate, then by member index (R91). -/
def Candidate.standsBefore (c d : Candidate) : Prop :=
  c.estimate < d.estimate ∨ (c.estimate = d.estimate ∧ c.member < d.member)

theorem Candidate.ranksBefore_iff {c d : Candidate} : c.ranksBefore d = true ↔ c.standsBefore d := by
  simp [Candidate.ranksBefore, Candidate.standsBefore]

theorem Candidate.standsBefore_trans {c d e : Candidate} (h : c.standsBefore d) (g : d.standsBefore e) : c.standsBefore e := by
  simp only [Candidate.standsBefore, Fin.lt_def] at *
  omega

theorem Candidate.standsBefore_asymm {c d : Candidate} (h : c.standsBefore d) : ¬d.standsBefore c := by
  simp only [Candidate.standsBefore, Fin.lt_def] at *
  omega

theorem Candidate.standsBefore_of_not {c d : Candidate} (other : c.member ≠ d.member) (h : ¬d.standsBefore c) :
    c.standsBefore d := by
  simp only [Candidate.standsBefore, Fin.lt_def, ne_eq, Fin.ext_iff] at *
  omega

theorem ranked_perm (l : List Candidate) : (ranked l).Perm l := sortBy_perm _ l

theorem ranked_ordered (distinct : (l.map (·.member)).Nodup) : (ranked l).Pairwise Candidate.standsBefore :=
  sortBy_ordered (le := Candidate.standsBefore) (fun _ _ _ => Candidate.standsBefore_trans)
    (fun _ _ _ h => Candidate.ranksBefore_iff.1 h)
    (fun _ _ other h => Candidate.standsBefore_of_not other fun g => Bool.eq_false_iff.1 h (Candidate.ranksBefore_iff.2 g))
    (List.pairwise_map.1 distinct)

/-- The order of the list does not reach the rank order: distinct candidates stand in one order only (R106). -/
theorem ranked_eq_of_perm (same : l.Perm l') (distinct : (l.map (·.member)).Nodup) : ranked l = ranked l' :=
  List.Perm.eq_of_pairwise (fun _ _ _ _ h g => absurd g (Candidate.standsBefore_asymm h)) (ranked_ordered distinct)
    (ranked_ordered ((same.map _).nodup_iff.1 distinct)) (((ranked_perm l).trans same).trans (ranked_perm l').symm)

/-! ### Role order (R92) -/

/-- One role stands before another: by slack, then Officer before Driver before Wearer (R92). -/
def Role.precedes (t : Template) (l : List Candidate) (r q : Role) : Prop :=
  slack t l r < slack t l q ∨ (slack t l r = slack t l q ∧ r.code.toNat < q.code.toNat)

theorem Role.not_precedes_self (r : Role) : ¬r.precedes t l r := by
  simp only [Role.precedes]
  omega

theorem Role.precedes_asymm {r q : Role} (h : r.precedes t l q) : ¬q.precedes t l r := by
  simp only [Role.precedes] at *
  omega

theorem Role.precedes_ne {r q : Role} (h : r.precedes t l q) : r ≠ q := fun same => Role.not_precedes_self q (same ▸ h)

theorem mem_roleOrder {r : Role} : r ∈ roleOrder t l ↔ 1 ≤ t.seatsOf r := by
  cases r <;> simp [roleOrder]

theorem roleOrder_ordered (t : Template) (l : List Candidate) : (roleOrder t l).Pairwise (Role.precedes t l) := by
  have coded : [Role.officer, .driver, .wearer].Pairwise fun r q => r.code.toNat < q.code.toNat := by decide
  refine sortBy_ordered (fun x y z h g => ?_) (fun x y _ h => .inl (of_decide_eq_true h)) (fun x y code h => ?_)
    (coded.sublist List.filter_sublist)
  · simp only [Role.precedes] at *
    omega
  · have notLess := of_decide_eq_false h
    simp only [Role.precedes]
    omega

/-- In an order split at a role, the part before it precedes the role and the part after it does not. -/
theorem precedes_of_roleOrder_eq {done later : List Role} {r : Role} (order : roleOrder t l = done ++ r :: later) :
    (∀ q ∈ done, q.precedes t l r) ∧ ∀ q ∈ later, r.precedes t l q := by
  have ordered := order ▸ roleOrder_ordered t l
  exact ⟨fun q hq => (List.pairwise_append.1 ordered).2.2 q hq r List.mem_cons_self,
    (List.pairwise_cons.1 (List.pairwise_append.1 ordered).2.1).1⟩

theorem roleOrder_eq_of_perm (same : l.Perm l') : roleOrder t l = roleOrder t l' := by
  have slacks : slack t l = slack t l' := funext fun r => by rw [slack, slack, holders, holders, same.countP_eq]
  rw [roleOrder, roleOrder, slacks]

theorem fillRoles_eq_of_perm (same : l.Perm l') (distinct : (l.map (·.member)).Nodup) : fillRoles t l = fillRoles t l' := by
  rw [fillRoles, fillRoles, ranked_eq_of_perm same distinct, roleOrder_eq_of_perm same]

/-- Settles O42: an evaluation reads the rank order and the role order alone. -/
theorem crewIgnoresTheOrderOfTheList : Obligations.CrewIgnoresTheOrderOfTheList := by
  intro x l l' same distinct
  rw [assemble, assemble, fillRoles_eq_of_perm same distinct, roleOrder_eq_of_perm same]

end Sys2Proof.Machine
end

section
/-! PROOF. The filling of the role seats, pick by pick (R93 to R96). -/

namespace Sys2Proof.Machine

open Sys2Proof

variable {t : Template} {l : List Candidate} {f : Filling} {r q : Role} {c d : Candidate}

/-! ### One pick (R95) -/

/-- A filling with one more pick: candidate `c` for a seat of role `r` (R93). -/
def Filling.picked (f : Filling) (r : Role) (c : Candidate) : Filling :=
  { unpicked := f.unpicked.erase c, picks := f.picks ++ [(r, c)] }

/-- A role takes no more picks: its seats are filled or no unpicked candidate holds it (R93). -/
def Filling.settled (f : Filling) (t : Template) (r : Role) : Prop :=
  f.filled r < t.seatsOf r → ∀ d ∈ f.unpicked, d.quals.has r = false

theorem Filling.filled_picked (f : Filling) (r : Role) (c : Candidate) (q : Role) :
    (f.picked r c).filled q = f.filled q + if r = q then 1 else 0 := by
  simp [Filling.picked, Filling.filled, List.countP_append, List.countP_cons]

theorem Filling.settled.picked (h : f.settled t q) (r : Role) (c : Candidate) : (f.picked r c).settled t q := by
  intro short d unpicked
  rw [Filling.filled_picked] at short
  exact h (by omega) d (List.mem_of_mem_erase unpicked)

theorem Filling.shielded_iff : f.shielded t r d = true ↔
    ∃ y : Role, y ≠ r ∧ 1 ≤ f.unfilled t y ∧ (f.unpicked.countP fun e => e.quals.has y) ≤ f.unfilled t y ∧
      d.quals.has y = true := by
  have all : ∀ y : Role, y ∈ [Role.officer, .driver, .wearer] := fun y => by cases y <;> decide
  simp only [Filling.shielded, List.any_eq_true, all, true_and, Filling.tight, Bool.and_eq_true, decide_eq_true_eq, and_assoc]
  rfl

/-- The first match in an ordered list stands before every other. -/
theorem find?_first {α : Type} {R : α → α → Prop} {p : α → Bool} {l : List α} {x : α} (ordered : l.Pairwise R)
    (found : l.find? p = some x) : ∀ y ∈ l, p y = true → y ≠ x → R x y := by
  obtain ⟨-, before, after, rfl, passed⟩ := List.find?_eq_some_iff_append.1 found
  intro y listed matched other
  rcases List.mem_append.1 listed with early | late
  · exact absurd matched (by simpa using passed y early)
  · exact (List.pairwise_cons.1 (List.pairwise_append.1 ordered).2.1).1 y ((List.mem_cons.1 late).resolve_left other)

theorem Filling.pick_none (none : f.pick t r = none) : ∀ d ∈ f.unpicked, d.quals.has r = false := by
  unfold Filling.pick at none
  split at none
  · cases none
  · simpa using none

/-- The pick is an unpicked holder. -/
theorem Filling.mem_of_pick (picked : f.pick t r = some c) : c ∈ f.unpicked ∧ c.quals.has r = true := by
  unfold Filling.pick at picked
  split at picked
  · rename_i e found
    cases picked
    have holds := List.find?_some found
    exact ⟨List.mem_of_find?_eq_some found, (Bool.and_eq_true_iff.1 holds).1⟩
  · have holds := List.find?_some picked
    exact ⟨List.mem_of_find?_eq_some picked, holds⟩

/-- The pick ranks first among the unprotected holders, or among all holders when all are protected (R95). -/
theorem Filling.pick_first (ordered : f.unpicked.Pairwise Candidate.standsBefore) (picked : f.pick t r = some c) :
    ∀ d ∈ f.unpicked, d.quals.has r = true → d ≠ c →
      (f.shielded t r c = false → f.shielded t r d = false → c.standsBefore d) ∧
      (f.shielded t r c = true → f.shielded t r d = true ∧ c.standsBefore d) := by
  obtain ⟨unpicked, holds⟩ := Filling.mem_of_pick picked
  intro d here holder other
  unfold Filling.pick at picked
  split at picked
  · rename_i e found
    cases picked
    have free := List.find?_some found
    rw [Bool.and_eq_true, Bool.not_eq_true'] at free
    refine ⟨fun _ open' => find?_first ordered found d here ?_ other, fun shielded => ?_⟩
    · rw [holder, open']
      rfl
    · exact absurd (free.2.symm.trans shielded) Bool.false_ne_true
  · rename_i all
    have shielded : ∀ e ∈ f.unpicked, e.quals.has r = true → f.shielded t r e = true := by simpa using all
    exact ⟨fun free => absurd (free.symm.trans (shielded c unpicked holds)) Bool.false_ne_true,
      fun _ => ⟨shielded d here holder, find?_first ordered picked d here holder other⟩⟩

/-! ### The picks in their order (R93) -/

/-- It is role `r`'s turn: the roles before it are settled, and no seat of a role after it is filled (R93). -/
structure Filling.TurnOf (f : Filling) (t : Template) (l : List Candidate) (r : Role) : Prop where
  listed : r ∈ roleOrder t l
  earlier : ∀ q ∈ roleOrder t l, q.precedes t l r → f.settled t q
  later : ∀ q ∈ roleOrder t l, r.precedes t l q → f.filled q = 0

/-- The fillings that an evaluation comes through, one pick after the other (R93). -/
inductive Filling.Reached (t : Template) (l : List Candidate) : Filling → Prop
  | start : Reached t l ⟨ranked l, []⟩
  | pick {f : Filling} {r : Role} {c : Candidate} (reached : Reached t l f) (turn : f.TurnOf t l r)
      (room : f.filled r < t.seatsOf r) (picked : f.pick t r = some c) : Reached t l (f.picked r c)

theorem Filling.TurnOf.picked (turn : f.TurnOf t l r) (c : Candidate) : (f.picked r c).TurnOf t l r where
  listed := turn.listed
  earlier q listed before := (turn.earlier q listed before).picked r c
  later q listed after := by rw [Filling.filled_picked, turn.later q listed after, if_neg (Role.precedes_ne after)]

/-- The seats of a role filled one at a time leave the role settled. -/
theorem Filling.Reached.fillSeats {n : Nat} (reached : f.Reached t l) (turn : f.TurnOf t l r)
    (room : f.filled r + n = t.seatsOf r) : (Filling.fillSeats t r n f).Reached t l ∧ (Filling.fillSeats t r n f).TurnOf t l r ∧
      (Filling.fillSeats t r n f).settled t r := by
  induction n generalizing f with
  | zero => exact ⟨reached, turn, fun short => absurd room short.ne⟩
  | succ n ih =>
    unfold Filling.fillSeats
    split
    · rename_i none
      exact ⟨reached, turn, fun _ => Filling.pick_none none⟩
    · rename_i c picked
      refine ih (reached.pick turn (by omega) picked) (turn.picked c) ?_
      have one := f.filled_picked r c r
      rw [if_pos rfl, Filling.picked] at one
      omega

/-- The roles still to fill, taken in the role order from where the filling stands. -/
theorem Filling.Reached.fillAll (done rest : List Role) (order : roleOrder t l = done ++ rest) (reached : f.Reached t l)
    (settled : ∀ q ∈ done, f.settled t q) (untouched : ∀ q ∈ rest, f.filled q = 0) :
    (rest.foldl (fun f r => f.fillSeats t r (t.seatsOf r)) f).Reached t l ∧
      ∀ q ∈ roleOrder t l, (rest.foldl (fun f r => f.fillSeats t r (t.seatsOf r)) f).settled t q := by
  induction rest generalizing done f with
  | nil => exact ⟨reached, fun q listed => settled q (by simpa [order] using listed)⟩
  | cons r rest ih =>
    obtain ⟨before, after⟩ := precedes_of_roleOrder_eq order
    have listed : ∀ q, q ∈ roleOrder t l ↔ q ∈ done ∨ q = r ∨ q ∈ rest := fun q => by simp [order]
    have turn : f.TurnOf t l r := {
      listed := (listed r).2 (.inr (.inl rfl))
      earlier := fun q here first => by
        rcases (listed q).1 here with early | rfl | late
        · exact settled q early
        · exact absurd first (Role.not_precedes_self q)
        · exact absurd first (Role.precedes_asymm (after q late))
      later := fun q here second => by
        rcases (listed q).1 here with early | rfl | late
        · exact absurd second (Role.precedes_asymm (before q early))
        · exact absurd second (Role.not_precedes_self q)
        · exact untouched q (.tail _ late) }
    obtain ⟨reached, turn, full⟩ := reached.fillSeats turn (n := t.seatsOf r) (by rw [untouched r List.mem_cons_self, zero_add])
    refine ih (done ++ [r]) (by simp [order]) reached (fun q early => ?_) fun q late =>
      turn.later q ((listed q).2 (.inr (.inr late))) (after q late)
    rcases List.mem_append.1 early with early | here
    · exact turn.earlier q ((listed q).2 (.inl early)) (before q early)
    · exact List.mem_singleton.1 here ▸ full

theorem fillRoles_reached (t : Template) (l : List Candidate) : (fillRoles t l).Reached t l :=
  (Filling.Reached.start.fillAll [] _ rfl nofun fun _ _ => rfl).1

theorem fillRoles_settled (listed : r ∈ roleOrder t l) : (fillRoles t l).settled t r :=
  (Filling.Reached.start.fillAll [] _ rfl nofun fun _ _ => rfl).2 r listed

/-! ### What every filling keeps -/

namespace Filling.Reached

/-- The picked and the unpicked together are the candidates. -/
theorem perm (h : f.Reached t l) : (f.picks.map (·.2) ++ f.unpicked).Perm l := by
  induction h with
  | start => exact ranked_perm l
  | @pick f r c reached turn room picked ih =>
    have moved := (List.perm_cons_erase (Filling.mem_of_pick picked).1).symm
    rw [Filling.picked, List.map_append, List.append_assoc]
    exact (moved.append_left _).trans ih

theorem sublist (h : f.Reached t l) : f.unpicked.Sublist (ranked l) := by
  induction h with
  | start => exact .refl _
  | pick _ _ _ _ ih => exact List.erase_sublist.trans ih

theorem ordered (h : f.Reached t l) (distinct : (l.map (·.member)).Nodup) : f.unpicked.Pairwise Candidate.standsBefore :=
  (ranked_ordered distinct).sublist h.sublist

theorem bound (h : f.Reached t l) (r : Role) : f.filled r ≤ t.seatsOf r := by
  induction h with
  | start => exact Nat.zero_le _
  | @pick f q c reached turn room picked ih =>
    rw [Filling.filled_picked]
    split
    · rename_i same
      exact same ▸ room
    · exact ih

/-- The picks stand role by role in the role order. -/
theorem roles (h : f.Reached t l) :
    f.picks.map (·.1) = (roleOrder t l).flatMap fun r => List.replicate (f.filled r) r := by
  induction h with
  | start => simp [Filling.filled]
  | @pick f r c reached turn room picked ih =>
    obtain ⟨done, later, order⟩ := List.append_of_mem turn.listed
    obtain ⟨before, after⟩ := precedes_of_roleOrder_eq order
    have earlier : (done.flatMap fun q => List.replicate ((f.picked r c).filled q) q) =
        done.flatMap fun q => List.replicate (f.filled q) q :=
      List.flatMap_congr fun q hq => by rw [Filling.filled_picked, if_neg (Role.precedes_ne (before q hq)).symm, add_zero]
    have untouched : ∀ g : Filling, g.TurnOf t l r → (later.flatMap fun q => List.replicate (g.filled q) q) = [] := fun g turn =>
      List.flatMap_eq_nil_iff.2 fun q hq => by rw [turn.later q (by simp [order, hq]) (after q hq)]; rfl
    rw [order, List.flatMap_append, List.flatMap_cons, untouched f turn] at ih
    rw [order, List.flatMap_append, List.flatMap_cons, untouched _ (turn.picked c), earlier, Filling.filled_picked, if_pos rfl,
      List.replicate_succ', Filling.picked, List.map_append, ih]
    simp

/-- Every pick was made at its role's turn, in the filling that the picks before it leave. -/
theorem turn_of_picks (h : f.Reached t l) {earlier later : List (Role × Candidate)} (split : f.picks = earlier ++ (r, c) :: later) :
    ∃ g : Filling, g.Reached t l ∧ g.picks = earlier ∧ g.TurnOf t l r ∧ g.pick t r = some c := by
  induction h generalizing later with
  | start => simp at split
  | @pick f q d reached turn room picked ih =>
    rcases List.eq_nil_or_concat later with rfl | ⟨rest, y, rfl⟩
    · obtain ⟨same, last⟩ := List.append_inj' split rfl
      cases last
      exact ⟨f, reached, same, turn, picked⟩
    · refine ih (later := rest) (List.append_inj_left' (t₁ := [(q, d)]) (t₂ := [y]) ?_ rfl)
      simpa [Filling.picked] using split

theorem holds (h : f.Reached t l) (picked : (r, c) ∈ f.picks) : c.quals.has r = true := by
  obtain ⟨earlier, later, split⟩ := List.append_of_mem picked
  obtain ⟨g, -, -, -, pick⟩ := h.turn_of_picks split
  exact (Filling.mem_of_pick pick).2

/-- The unpicked are the candidates without the picked. -/
theorem unpicked_perm (h : f.Reached t l) (distinct : (l.map (·.member)).Nodup) :
    f.unpicked.Perm (l.filter fun d => d ∉ f.picks.map (·.2)) := by
  have apart := (List.nodup_append.1 (h.perm.nodup_iff.2 distinct.of_map)).2.2
  have picked : (f.picks.map (·.2)).filter (fun d => d ∉ f.picks.map (·.2)) = [] :=
    List.filter_eq_nil_iff.2 fun d there out => of_decide_eq_true out there
  have unpicked : f.unpicked.filter (fun d => d ∉ f.picks.map (·.2)) = f.unpicked :=
    List.filter_eq_self.2 fun d here => decide_eq_true fun there => apart d there d here rfl
  have parts := h.perm.filter fun d => d ∉ f.picks.map (·.2)
  rwa [List.filter_append, picked, unpicked, List.nil_append] at parts

end Filling.Reached

end Sys2Proof.Machine
end

section
/-! PROOF. The seats of an evaluation, its missing counts, its estimate and its status (R86, R93 to R99). -/

namespace Sys2Proof.Machine

open Sys2Proof

variable {t : Template} {l : List Candidate} {f : Filling} {r : Role} {c : Candidate} {m : MemberIdx}

/-! ### Seat groups (R86) -/

/-- The kind of a role's seats. -/
def Role.seat : Role → SeatRole
  | .officer => .officer
  | .driver => .driver
  | .wearer => .wearer

theorem Role.seat_ne_crew (r : Role) : r.seat ≠ .crew := by cases r <;> nofun

/-- The members picked for a role, in the order of filling. -/
def Filling.membersOf (f : Filling) (r : Role) : List MemberIdx := (f.picks.filter fun y => y.1 = r).map fun y => y.2.member

theorem Filling.length_membersOf (f : Filling) (r : Role) : (f.membersOf r).length = f.filled r := by
  rw [Filling.membersOf, List.length_map, Filling.filled, List.countP_eq_length_filter]

/-- The candidates that the Crew seats take (R96). -/
def Filling.crew (f : Filling) (t : Template) : List Candidate := f.unpicked.take t.crewSeats

/-- The seats of an assignment, group by group. -/
theorem assemble_seats (t : Template) (l : List Candidate) : (assemble t l).seats =
    ([Role.officer, .driver, .wearer].flatMap fun r => seatGroup r.seat (t.seatsOf r) ((fillRoles t l).membersOf r)) ++
      seatGroup .crew t.crewSeats (((fillRoles t l).crew t).map (·.member)) := by
  simp only [List.flatMap_cons, List.flatMap_nil, List.append_nil, ← List.append_assoc]
  rfl

theorem seatGroup_roles {role : SeatRole} {n : Nat} {members : List MemberIdx} (fits : members.length ≤ n) :
    (seatGroup role n members).map (·.role) = List.replicate n role := by
  have named : members.map (fun m => (⟨role, some m⟩ : SeatRecord).role) = List.replicate members.length role := List.map_const' ..
  rw [seatGroup, List.map_append, List.map_map, List.map_replicate]
  refine (congrArg (· ++ _) named).trans ?_
  rw [List.replicate_append_replicate, Nat.add_sub_cancel' fits]

theorem seatGroup_members (role : SeatRole) (n : Nat) (members : List MemberIdx) :
    (seatGroup role n members).filterMap (·.member) = members := by
  simp [seatGroup, List.filterMap_append, List.filterMap_map]

theorem mem_seatGroup {kind role : SeatRole} {n : Nat} {members : List MemberIdx} :
    ⟨kind, some m⟩ ∈ seatGroup role n members ↔ kind = role ∧ m ∈ members := by
  simp [seatGroup, List.mem_replicate, and_comm, eq_comm]

/-- The open seats of one kind in a group of another, or of its own. -/
theorem seatGroup_open (kind role : SeatRole) (n : Nat) (members : List MemberIdx) :
    (seatGroup role n members).countP (fun y => y.role = kind && y.member.isNone) =
      if role = kind then n - members.length else 0 := by
  simp [seatGroup, List.countP_append, List.countP_map, List.countP_replicate, Function.comp_def]

/-! ### The seats of an assignment -/

/-- A seat is filled by a pick for its role, or is a Crew seat filled by a candidate left over. -/
theorem mem_assemble_seats {kind : SeatRole} : ⟨kind, some m⟩ ∈ (assemble t l).seats ↔
    (∃ r c, (r, c) ∈ (fillRoles t l).picks ∧ kind = r.seat ∧ c.member = m) ∨
      (kind = .crew ∧ ∃ c ∈ (fillRoles t l).crew t, c.member = m) := by
  have all : ∀ r : Role, r ∈ [Role.officer, .driver, .wearer] := fun r => by cases r <;> decide
  rw [assemble_seats, List.mem_append, mem_seatGroup, List.mem_flatMap, List.mem_map]
  refine or_congr_left ⟨fun ⟨r, _, seated⟩ => ?_, fun ⟨r, c, picked, kind, member⟩ => ⟨r, all r, mem_seatGroup.2 ⟨kind, ?_⟩⟩⟩
  · obtain ⟨kind, picked⟩ := mem_seatGroup.1 seated
    obtain ⟨⟨q, c⟩, own, member⟩ := List.mem_map.1 picked
    obtain ⟨picked, same⟩ := List.mem_filter.1 own
    exact ⟨q, c, picked, kind.trans (congrArg Role.seat (of_decide_eq_true same).symm), member⟩
  · exact List.mem_map.2 ⟨(r, c), List.mem_filter.2 ⟨picked, decide_eq_true rfl⟩, member⟩

/-- The picks role by role are the picks. -/
theorem picks_perm_groups {α : Type} (picks : List (Role × α)) :
    ([Role.officer, .driver, .wearer].flatMap fun r => picks.filter fun y => y.1 = r).Perm picks := by
  simp only [List.flatMap_cons, List.flatMap_nil, List.append_nil]
  induction picks with
  | nil => exact .refl _
  | cons y rest ih =>
    obtain ⟨r, c⟩ := y
    cases r with
    | officer => exact ih.cons _
    | driver => exact List.perm_middle.trans (ih.cons _)
    | wearer => exact (List.Perm.append_left _ List.perm_middle).trans (List.perm_middle.trans (ih.cons _))

/-- The candidates with a seat. -/
def seatedOf (t : Template) (l : List Candidate) : List Candidate :=
  (fillRoles t l).picks.map (·.2) ++ (fillRoles t l).crew t

theorem seated_perm (t : Template) (l : List Candidate) :
    (assemble t l).seated.Perm ((seatedOf t l).map (·.member)) := by
  have groups := (picks_perm_groups (fillRoles t l).picks).map fun y => y.2.member
  rw [Crew.seated, assemble_seats, List.filterMap_append, seatGroup_members, List.filterMap_flatMap, seatedOf, List.map_append,
    List.map_map]
  simp only [seatGroup_members]
  rw [List.map_flatMap] at groups
  exact groups.append_right _

theorem seatedOf_subperm (t : Template) (l : List Candidate) : (seatedOf t l).Subperm l :=
  ((List.take_sublist _ _).append_left _).subperm.trans (fillRoles_reached t l).perm.subperm

theorem seated_nodup (distinct : (l.map (·.member)).Nodup) : (assemble t l).seated.Nodup := by
  rw [(seated_perm t l).nodup_iff]
  obtain ⟨seated, same, part⟩ := seatedOf_subperm t l
  exact (same.map _).nodup_iff.1 (distinct.sublist (part.map _))

theorem crewSeats_add (inRange : t.inRange) : t.officer + t.driver + t.wearer + t.crewSeats = t.total := by
  rw [Template.crewSeats]
  rcases inRange with rfl | ⟨-, -, -, -, -, room, -⟩
  · rfl
  · omega

theorem assemble_roles (t : Template) (l : List Candidate) : (assemble t l).seats.map (·.role) =
    List.replicate t.officer SeatRole.officer ++ List.replicate t.driver SeatRole.driver ++
      List.replicate t.wearer SeatRole.wearer ++ List.replicate t.crewSeats SeatRole.crew := by
  have role : ∀ r, (seatGroup r.seat (t.seatsOf r) ((fillRoles t l).membersOf r)).map (·.role) =
      List.replicate (t.seatsOf r) r.seat := fun r =>
    seatGroup_roles ((Filling.length_membersOf _ r).trans_le ((fillRoles_reached t l).bound r))
  have crew : (((fillRoles t l).crew t).map (·.member)).length ≤ t.crewSeats := by
    rw [List.length_map]
    exact List.length_take_le _ _
  rw [assemble_seats, List.map_append, List.map_flatMap, seatGroup_roles crew]
  simp only [role, List.flatMap_cons, List.flatMap_nil, List.append_nil, ← List.append_assoc]
  rfl

theorem assemble_size (inRange : t.inRange) : (assemble t l).seats.length = t.total := by
  rw [← List.length_map (f := (·.role)), assemble_roles, ← crewSeats_add inRange]
  simp [Nat.add_assoc]

/-- Settles O40: the roles group by group, and a seat's member by how the seat was filled. -/
theorem crewSeatsAreQualifiedAndDistinct : Obligations.CrewSeatsAreQualifiedAndDistinct := by
  intro t l inRange written distinct w
  have size : w.seats.length = t.total := assemble_size inRange
  refine ⟨assemble_roles t l, size, rfl, seated_nodup distinct, size ▸ List.length_filterMap_le _ _, ?_⟩
  rintro ⟨kind, member⟩ listed m rfl
  have reached := fillRoles_reached t l
  rcases mem_assemble_seats.1 listed with ⟨r, c, picked, rfl, named⟩ | ⟨rfl, c, left, named⟩
  · have holds := reached.holds picked
    refine ⟨c, reached.perm.mem_iff.1 (List.mem_append_left _ (List.mem_map_of_mem picked)), named, ?_⟩
    cases r <;> simpa [Role.seat, Quals.has] using holds
  · exact ⟨c, reached.perm.mem_iff.1 (List.mem_append_right _ (List.mem_of_mem_take left)), named, nofun, nofun, nofun⟩

/-! ### Missing counts, estimate and status (R97, R99) -/

/-- The open seats of one kind (R97). -/
def Crew.openSeats (w : Crew) (kind : SeatRole) : Nat := w.seats.countP fun y => y.role = kind && y.member.isNone

theorem openSeats_role (t : Template) (l : List Candidate) (r : Role) :
    (assemble t l).openSeats r.seat = (fillRoles t l).unfilled t r := by
  rw [Crew.openSeats, assemble_seats]
  simp only [List.countP_append, List.flatMap_cons, List.flatMap_nil, List.countP_nil, seatGroup_open, Filling.length_membersOf,
    Filling.unfilled]
  cases r <;> simp [Role.seat]

theorem openSeats_crew (t : Template) (l : List Candidate) :
    (assemble t l).openSeats .crew = t.crewSeats - ((fillRoles t l).crew t).length := by
  rw [Crew.openSeats, assemble_seats]
  simp [List.countP_append, seatGroup_open, Role.seat]

theorem assemble_missing (t : Template) (l : List Candidate) : (assemble t l).missing =
    ⟨(assemble t l).openSeats .officer, (assemble t l).openSeats .driver, (assemble t l).openSeats .wearer,
      (assemble t l).openSeats .crew⟩ := by
  show _ = RoleCounts.mk ((assemble t l).openSeats (Role.seat .officer)) ((assemble t l).openSeats (Role.seat .driver))
    ((assemble t l).openSeats (Role.seat .wearer)) _
  rw [openSeats_role, openSeats_role, openSeats_role, openSeats_crew]
  rfl

/-- A crew misses no seat when every seat is filled (R97). -/
theorem missing_none_iff : (assemble t l).missing = ⟨0, 0, 0, 0⟩ ↔ ∀ x ∈ (assemble t l).seats, x.member ≠ none := by
  have kinds : ∀ kind, (assemble t l).openSeats kind = 0 ↔ ∀ x ∈ (assemble t l).seats, x.role = kind → x.member ≠ none := by
    simp [Crew.openSeats, List.countP_eq_zero]
  rw [assemble_missing, RoleCounts.mk.injEq, kinds, kinds, kinds, kinds]
  refine ⟨fun ⟨officer, driver, wearer, crew⟩ x listed => ?_, fun full =>
    ⟨fun x h _ => full x h, fun x h _ => full x h, fun x h _ => full x h, fun x h _ => full x h⟩⟩
  cases kind : x.role with
  | officer => exact officer x listed kind
  | driver => exact driver x listed kind
  | wearer => exact wearer x listed kind
  | crew => exact crew x listed kind

/-- The largest estimate of some candidates, 0 of none (R97). -/
def latest (l : List Candidate) : Nat := l.foldl (fun n c => max n c.estimate) 0

theorem latest_cons (c : Candidate) (l : List Candidate) : latest (c :: l) = max c.estimate (latest l) := by
  have folded : ∀ (d : List Candidate) (n : Nat), d.foldl (fun n c => max n c.estimate) n = (d.map (·.estimate)).foldl max n :=
    fun _ _ => List.foldl_map.symm
  rw [latest, latest, folded, folded, List.map_cons, List.foldl_cons, max_comm, List.foldl_assoc]

theorem le_latest (listed : c ∈ l) : c.estimate ≤ latest l := by
  induction l with
  | nil => cases listed
  | cons d l ih =>
    rw [latest_cons]
    rcases List.mem_cons.1 listed with rfl | later
    · exact le_max_left _ _
    · exact (ih later).trans (le_max_right _ _)

theorem latest_mem (some' : l ≠ []) : ∃ c ∈ l, c.estimate = latest l := by
  induction l with
  | nil => exact absurd rfl some'
  | cons d l ih =>
    rw [latest_cons]
    by_cases first : latest l ≤ d.estimate
    · exact ⟨d, List.mem_cons_self, (max_eq_left first).symm⟩
    · have more : l ≠ [] := fun none => first (none ▸ Nat.zero_le _)
      obtain ⟨c, listed, largest⟩ := ih more
      exact ⟨c, .tail _ listed, by omega⟩

/-- The crew-ready estimate is the largest of the seated candidates' estimates, in a crew that misses no seat (R97). -/
theorem assemble_ready (t : Template) (l : List Candidate) : (assemble t l).ready =
    if (assemble t l).missing = ⟨0, 0, 0, 0⟩ then some (latest (seatedOf t l)) else none := rfl

theorem assemble_status (t : Template) (l : List Candidate) :
    (assemble t l).status = statusOf (assemble t l).missing t.target (latest (seatedOf t l)) := rfl

theorem mem_seated (distinct : (l.map (·.member)).Nodup) (listed : c ∈ l) :
    c.member ∈ (assemble t l).seated ↔ c ∈ seatedOf t l := by
  rw [(seated_perm t l).mem_iff]
  refine ⟨fun seated => ?_, List.mem_map_of_mem⟩
  obtain ⟨d, own, same⟩ := List.mem_map.1 seated
  exact List.inj_on_of_nodup_map distinct ((seatedOf_subperm t l).subset own) listed same ▸ own

theorem ready_eq_none_iff : (assemble t l).ready = none ↔ (assemble t l).missing ≠ ⟨0, 0, 0, 0⟩ := by
  rw [assemble_ready, ite_eq_right_iff]
  exact ⟨fun h complete => Option.some_ne_none _ (h complete), fun h complete => absurd complete h⟩

theorem ready_eq_some_iff {n : Nat} :
    (assemble t l).ready = some n ↔ (assemble t l).missing = ⟨0, 0, 0, 0⟩ ∧ latest (seatedOf t l) = n := by
  rw [assemble_ready, Option.ite_none_right_eq_some, Option.some.injEq]

/-- A written template has a seat, so that a crew that misses none has someone seated (R22). -/
theorem seatedOf_ne_nil (inRange : t.inRange) (written : t.written = true) (complete : (assemble t l).missing = ⟨0, 0, 0, 0⟩) :
    seatedOf t l ≠ [] := by
  intro none
  have seats : (assemble t l).seats ≠ [] := fun empty =>
    of_decide_eq_true written (by rw [← assemble_size inRange (l := l), empty]; rfl)
  obtain ⟨x, listed⟩ := List.exists_mem_of_ne_nil _ seats
  obtain ⟨m, filled⟩ := Option.ne_none_iff_exists'.1 (missing_none_iff.1 complete x listed)
  have seated : m ∈ (assemble t l).seated := List.mem_filterMap.2 ⟨x, listed, filled⟩
  rw [(seated_perm t l).mem_iff, none] at seated
  cases seated

/-- Settles O41: what the missing counts are, then a complete crew and one that is not. -/
theorem crewStatusFollowsTheEstimates : Obligations.CrewStatusFollowsTheEstimates := by
  intro t l inRange written distinct small w open'
  refine ⟨assemble_missing t l, rfl, ?_, fun short => ?_, fun n ready => ?_⟩
  · rw [← missing_none_iff, Ne, ready_eq_none_iff, not_not]
  · exact (assemble_status t l).trans (if_neg (ready_eq_none_iff.1 short))
  · obtain ⟨complete, rfl⟩ := ready_eq_some_iff.1 ready
    obtain ⟨c, seated, largest⟩ := latest_mem (seatedOf_ne_nil inRange written complete)
    have listed := (seatedOf_subperm t l).subset seated
    exact ⟨largest ▸ small c listed, ⟨c, listed, (mem_seated distinct listed).2 seated, largest⟩,
      fun d listed seated => le_latest ((mem_seated distinct listed).1 seated),
      (assemble_status t l).trans (if_pos complete)⟩

/-! ### The role seats and the Crew seats (R92 to R96) -/

/-- While a role misses a seat, each of its holders is picked for a role seat (R93). -/
theorem holder_seated (short : 0 < (fillRoles t l).unfilled t r) (listed : c ∈ l) (holds : c.quals.has r = true) :
    ∃ x ∈ (assemble t l).seats, x.member = some c.member ∧ x.role ≠ .crew := by
  have bounded : (fillRoles t l).filled r < t.seatsOf r := Nat.lt_of_sub_pos short
  have settled := fillRoles_settled (mem_roleOrder.2 (Nat.one_le_of_lt bounded)) bounded
  rcases List.mem_append.1 ((fillRoles_reached t l).perm.mem_iff.2 listed) with picked | left
  · obtain ⟨⟨q, d⟩, pick, rfl⟩ := List.mem_map.1 picked
    exact ⟨⟨q.seat, some d.member⟩, mem_assemble_seats.2 (.inl ⟨q, d, pick, rfl, rfl⟩), rfl, q.seat_ne_crew⟩
  · exact absurd ((settled c left).symm.trans holds) Bool.false_ne_true

/-- While a Crew seat is missing, every candidate is seated (R96). -/
theorem candidate_seated (short : 0 < (assemble t l).missing.crew) (listed : c ∈ l) :
    ∃ x ∈ (assemble t l).seats, x.member = some c.member := by
  have few : (fillRoles t l).unpicked.length ≤ t.crewSeats := by
    have short : 0 < t.crewSeats - ((fillRoles t l).unpicked.take t.crewSeats).length := short
    rw [List.length_take] at short
    omega
  have all : seatedOf t l = (fillRoles t l).picks.map (·.2) ++ (fillRoles t l).unpicked := by
    rw [seatedOf, Filling.crew, List.take_of_length_le few]
  have seated : c.member ∈ (assemble t l).seated := by
    rw [(seated_perm t l).mem_iff, all]
    exact List.mem_map_of_mem ((fillRoles_reached t l).perm.mem_iff.2 listed)
  exact List.mem_filterMap.1 seated

/-- What an unpicked holder is protected by, counted among the candidates not yet picked (R94). -/
theorem Filling.Reached.shielded_iff {g : Filling} (h : g.Reached t l) (distinct : (l.map (·.member)).Nodup) {d : Candidate} :
    g.shielded t r d = true ↔ ∃ y : Role, y ≠ r ∧ 1 ≤ t.seatsOf y - g.picks.countP (fun z => z.1 = y) ∧
      ((l.filter fun e => e ∉ g.picks.map (·.2)).countP fun e => e.quals.has y) ≤
        t.seatsOf y - g.picks.countP (fun z => z.1 = y) ∧ d.quals.has y = true := by
  simp only [Filling.shielded_iff, (h.unpicked_perm distinct).countP_eq]
  rfl

/-- Settles O43: the orders, the seats that stay open, and the filling that every pick is made in. -/
theorem rolesAreFilledWhileHoldersRemain : Obligations.RolesAreFilledWhileHoldersRemain := by
  refine ⟨fun _ => rfl, fun _ => rfl, fun t l inRange written distinct => ?_⟩
  intro w slackOf before
  have reached := fillRoles_reached t l
  refine ⟨fun r => mem_roleOrder, roleOrder_ordered t l, fun c listed short => ?_, fun short c => candidate_seated short,
    (fillRoles t l).picks, (fillRoles t l).unpicked, ?_⟩
  · rcases short with ⟨short, holds⟩ | ⟨short, holds⟩ | ⟨short, holds⟩
    · exact holder_seated (r := .officer) short listed holds
    · exact holder_seated (r := .driver) short listed holds
    · exact holder_seated (r := .wearer) short listed holds
  intro filled group crew
  refine ⟨reached.roles, reached.bound, fun earlier later r c split => ?_, reached.unpicked_perm distinct,
    reached.ordered distinct, ?_⟩
  · intro unpicked unfilled shielded
    obtain ⟨g, here, rfl, turn, pick⟩ := reached.turn_of_picks split
    have left : ∀ d, d ∈ g.unpicked ↔ d ∈ unpicked := fun d => (here.unpicked_perm distinct).mem_iff
    have protect : ∀ d, g.shielded t r d = true ↔ shielded d := fun d => here.shielded_iff distinct
    obtain ⟨own, holds⟩ := Filling.mem_of_pick pick
    refine ⟨(left c).1 own, holds, fun d waits holder other => ?_, fun q sub short d waits => ?_⟩
    · simp only [← protect, Bool.not_eq_true]
      exact Filling.pick_first (here.ordered distinct) pick d ((left d).2 waits) holder other
    · have first := List.pairwise_iff_forall_sublist.1 (roleOrder_ordered t l) sub
      have grown : g.filled q ≤ filled q := (split ▸ List.sublist_append_left g.picks _ : g.picks.Sublist _).countP_le
      exact turn.earlier q (sub.subset List.mem_cons_self) first (grown.trans_lt short) d ((left d).2 waits)
  · have groups : ∀ r role, group r role = seatGroup role (t.seatsOf r) ((fillRoles t l).membersOf r) := fun r role => by
      rw [seatGroup, Filling.length_membersOf, Filling.membersOf, List.map_map]
      rfl
    have rest : (crew.map fun d => (⟨.crew, some d.member⟩ : SeatRecord)) ++
        List.replicate (t.total - (t.officer + t.driver + t.wearer) - crew.length) ⟨.crew, none⟩ =
          seatGroup .crew t.crewSeats (((fillRoles t l).crew t).map (·.member)) := by
      rw [seatGroup, List.length_map, List.map_map]
      rfl
    rw [groups, groups, groups, rest]
    rfl

end Sys2Proof.Machine
end

section
/-! PROOF. What leaves the channel, the clock source and the sample output as they are: every command but those of the channel, of the
clock and of a reset. -/

namespace Sys2Proof.Machine

open Sys2Proof

variable {s t u : State} {k : SlotIdx} {c : Callout} {p : Port}

/-! ### The air -/

/-- What goes out on the air is left as it is: the channel, the source of its symbol times and the sample output. -/
structure State.airKept (s t : State) : Prop where
  channel : t.channel = s.channel
  clock : t.sup.clock = s.sup.clock
  sample : t.tx.sample = s.tx.sample

theorem State.airKept_refl (s : State) : s.airKept s := ⟨rfl, rfl, rfl⟩

theorem State.airKept_trans (h : s.airKept t) (g : t.airKept u) : s.airKept u :=
  ⟨g.channel.trans h.channel, g.clock.trans h.clock, g.sample.trans h.sample⟩

/-- A frame equation, which says that a state with some fields of `t` put back is `s`, carries the air over. -/
theorem State.airKept_of_frame (frame : u = s) (h : u.airKept t) : s.airKept t := frame ▸ h

theorem State.noticed.airKept (told : s.noticed t) : s.airKept t := State.airKept_of_frame told.1 ⟨rfl, rfl, rfl⟩

/-- Notices and then a slot replaced. -/
theorem State.airKept_told {x : Option Callout} (told : s.noticed u) : s.airKept (u.setSlot k x) :=
  State.airKept_trans told.airKept ⟨rfl, rfl, rfl⟩

/-! ### The callout engine's operations -/

theorem State.airKept_startStep (s : State) (k : SlotIdx) (i : Nat) (c : Callout) : s.airKept (s.startStep k i c) := by
  obtain ⟨u, c', told, started, -, -⟩ := s.startStep_effect k i c
  rw [started]
  exact State.airKept_told told

theorem State.airKept_expireHold (s : State) (k : SlotIdx) (c : Callout) (run : ActiveRun) :
    s.airKept (s.expireHold k c run) := by
  obtain ⟨u, c', told, expired, -, -⟩ := s.expireHold_effect k c run
  rw [expired]
  exact State.airKept_told told

theorem State.airKept_settle (s : State) (k : SlotIdx) (c : Callout) : s.airKept (s.settle k c) :=
  State.airKept_of_frame (s.settle_frame k c).1 ⟨rfl, rfl, rfl⟩

theorem State.airKept_allocate (s : State) (p : Port) (k : SlotIdx) (c : Callout) : s.airKept (s.allocate p k c) := by
  unfold State.allocate
  refine State.airKept_trans ?_ (State.airKept_startStep _ k 0 c)
  exact ⟨rfl, rfl, rfl⟩

theorem State.airKept_escalateTo (s : State) (k : SlotIdx) (c : Callout) (i : PlanIdx) : s.airKept (s.escalateTo k c i) := by
  have planChanged : s.airKept (if i = c.plan then s else (s.leavePlan c.plan).takeUpPlan i) := by
    split <;> exact ⟨rfl, rfl, rfl⟩
  unfold State.escalateTo
  refine State.airKept_trans ?_ (State.airKept_startStep _ k 0 _)
  refine State.airKept_trans ?_ (State.noticed_raiseCrewStatus _ c.crew _).airKept
  exact State.airKept_trans planChanged (State.airKept_settle _ k _)

theorem State.airKept_cancelCallout (s : State) (k : SlotIdx) (c : Callout) : s.airKept (s.cancelCallout k c) := by
  unfold State.cancelCallout
  dsimp only
  split <;> exact ⟨rfl, rfl, rfl⟩

/-! ### Replies (R70) -/

theorem State.airKept_withdraw (s : State) (k : SlotIdx) (d : Callout) (r : Reply) : s.airKept (s.withdraw k d r) := by
  have engaged : s.airKept (s.engage r.member .free) := ⟨rfl, rfl, rfl⟩
  exact State.airKept_trans (State.airKept_trans engaged (State.airKept_settle _ k _)) (s.withdraw_effect k d r).airKept

theorem State.airKept_record (s : State) (k : SlotIdx) (c : Callout) (r : Reply) (a : Answer) (mark : Bool) (room : Room) :
    s.airKept (s.record k c r a mark room) := by
  have engaged : s.airKept (s.engageReply c.number r.member a mark) :=
    State.airKept_of_frame (s.engageReply_frame c.number r.member a mark).1 ⟨rfl, rfl, rfl⟩
  exact State.airKept_trans (State.airKept_trans engaged (State.airKept_settle _ k _))
    (s.record_effect k c r a mark room).airKept

theorem State.airKept_handleReply (s : State) (k : SlotIdx) (c : Callout) (r : Reply) :
    s.airKept (s.handleReply k c r).1 := by
  have outcomes := s.handleReply_cases k c r
  dsimp only at outcomes
  rcases outcomes with ⟨-, full⟩ | ⟨-, full⟩ | ⟨-, ⟨kd, d, -, recorded⟩ | ⟨-, recorded⟩ | ⟨-, recorded⟩⟩
  · rw [full]
    exact (State.noticed_raiseNotice _ _ _).airKept
  · rw [full]
    exact s.airKept_refl
  · rw [recorded]
    exact State.airKept_trans (s.airKept_withdraw kd d r) (State.airKept_record _ k c r _ _ _)
  · rw [recorded]
    exact s.airKept_record k c r _ _ _
  · rw [recorded]
    exact s.airKept_record k c r _ _ _

/-! ### Requests (R165, R167) -/

theorem State.airKept_takeRequest {perm : Permission} {body : State → Taken} (kept : s.airKept (body s).1) :
    s.airKept (s.takeRequest p perm body) :=
  State.takeRequest_cases s.airKept_refl (fun _ => ⟨rfl, rfl, rfl⟩) (State.airKept_trans kept ⟨rfl, rfl, rfl⟩)

theorem raiseBody_airKept (reference : Quad) (plan priority cls : Byte) (location : Three) :
    s.airKept (raiseBody p reference plan priority cls location s).1 := by
  unfold raiseBody
  split
  · exact s.airKept_refl
  · split
    · split <;> exact ⟨rfl, rfl, rfl⟩
    · split
      · exact s.airKept_refl
      · split
        · exact s.airKept_refl
        · split
          · exact s.airKept_refl
          · exact s.airKept_allocate p _ _

/-- A request on a callout that its port may change (R50). -/
theorem State.airKept_permitted {n : Half} {effect : SlotIdx → Callout → Taken} (kept : ∀ k c, s.airKept (effect k c).1) :
    s.airKept (s.permitted p n effect).1 := by
  unfold State.permitted
  split
  · exact s.airKept_refl
  · split
    · exact kept _ _
    · exact s.airKept_refl

theorem escalateBody_airKept (number : Half) (plan : Byte) : s.airKept (escalateBody p number plan s).1 := by
  refine State.airKept_permitted fun k c => ?_
  split
  · split
    · split
      · exact s.airKept_escalateTo k c _
      · exact s.airKept_refl
    · exact s.airKept_refl
  · exact s.airKept_refl

theorem cancelBody_airKept (number : Half) : s.airKept (cancelBody p number s).1 := by
  refine State.airKept_permitted fun k c => ?_
  split
  · exact s.airKept_cancelCallout k c
  · exact s.airKept_refl

theorem markDepartedBody_airKept (number : Half) : s.airKept (markDepartedBody number s).1 := by
  unfold markDepartedBody
  split
  · exact s.airKept_refl
  · split <;> exact ⟨rfl, rfl, rfl⟩

theorem releaseBody_airKept (number : Half) : s.airKept (releaseBody p number s).1 := by
  refine State.airKept_permitted fun k c => ?_
  split <;> exact ⟨rfl, rfl, rfl⟩

theorem recordReplyBody_airKept (member : Byte) (number : Half) (answer eta : Byte) :
    s.airKept (recordReplyBody p member number answer eta s).1 := by
  unfold recordReplyBody
  split
  · split
    · split
      · exact s.airKept_refl
      · split
        · exact s.airKept_refl
        · split
          · exact s.airKept_refl
          · exact s.airKept_handleReply _ _ _
    · exact s.airKept_refl
  · exact s.airKept_refl

theorem markArrivedBody_airKept (member : Byte) (number : Half) : s.airKept (markArrivedBody p member number s).1 := by
  unfold markArrivedBody
  split
  · exact s.airKept_refl
  · split
    · split
      · exact s.airKept_refl
      · split
        · exact s.airKept_refl
        · split
          · exact s.airKept_refl
          · exact s.airKept_handleReply _ _ _
    · exact s.airKept_refl

theorem setAvailabilityBody_airKept (member availability : Byte) :
    s.airKept (setAvailabilityBody p member availability s).1 := by
  unfold setAvailabilityBody
  split
  · split <;> exact ⟨rfl, rfl, rfl⟩
  · exact s.airKept_refl

theorem State.airKept_storeMember (s : State) (m : MemberIdx) (x : Member) : s.airKept (s.storeMember m x) := by
  unfold State.storeMember
  split <;> exact ⟨rfl, rfl, rfl⟩

theorem writeMemberBody_airKept (member inUse kind : Byte) (address : Three) (toneGroup quals : Byte) (groups : Half)
    (eta availability : Byte) :
    s.airKept (writeMemberBody p member inUse kind address toneGroup quals groups eta availability s).1 := by
  unfold writeMemberBody
  split
  · exact s.airKept_refl
  · split
    · exact s.airKept_refl
    · split
      · exact s.airKept_storeMember _ _
      · split
        · exact s.airKept_refl
        · split
          · split
            · exact s.airKept_refl
            · exact s.airKept_storeMember _ _
          · exact s.airKept_refl

theorem writePlanStepBody_airKept (plan step kind : Byte) (groups : Half) (count toneGroup condition : Byte) (hold : Half)
    (repeats rate : Byte) :
    s.airKept (writePlanStepBody plan step kind groups count toneGroup condition hold repeats rate s).1 := by
  unfold writePlanStepBody
  split
  · split
    · exact s.airKept_refl
    · split
      · exact s.airKept_refl
      · split <;> exact ⟨rfl, rfl, rfl⟩
  · exact s.airKept_refl

theorem writeTemplateBody_airKept (plan officer driver wearer total : Byte) (target : Half) :
    s.airKept (writeTemplateBody plan officer driver wearer total target s).1 := by
  unfold writeTemplateBody
  split
  · exact s.airKept_refl
  · split
    · exact s.airKept_refl
    · split <;> exact ⟨rfl, rfl, rfl⟩

theorem State.airKept_readNamed (s : State) (number : Half) (fields : SlotIdx → Callout → List Byte) :
    s.airKept (s.readNamed number fields).1 := by
  unfold State.readNamed
  split <;> exact s.airKept_refl

/-! ### Events -/

theorem execCalloutReply_airKept (h : execCalloutReply s = .next t) : s.airKept t := by
  cases h
  split
  · exact s.airKept_refl
  · split
    · exact s.airKept_refl
    · unfold State.takeHandOff
      split
      · exact ⟨rfl, rfl, rfl⟩
      · split
        · refine State.airKept_trans ?_ (State.airKept_handleReply _ _ _ _)
          exact ⟨rfl, rfl, rfl⟩
        · exact ⟨rfl, rfl, rfl⟩

theorem execHoldExpiry_airKept (h : execHoldExpiry s = .next t) : s.airKept t := by
  cases h
  split
  · exact s.airKept_refl
  · split
    · split
      · exact s.airKept_expireHold _ _ _
      · exact s.airKept_refl
    · exact s.airKept_refl

theorem execToneCallStart_airKept (h : execToneCallStart s = .next t) : s.airKept t := by
  cases h
  split
  · split
    · unfold State.startTone
      split <;> exact ⟨rfl, rfl, rfl⟩
    · exact s.airKept_refl
  · exact s.airKept_refl

theorem execFrameAssembly_airKept (h : execFrameAssembly s = .next t) : s.airKept t := by
  cases h
  split
  · split <;> exact ⟨rfl, rfl, rfl⟩
  · exact s.airKept_refl

/-! ### Every other command -/

/-- The commands of the channel, of the clock, of a reset and of a sample time: those that move the channel, the clock source or the
sample output. -/
def movesAir : Instr → Bool
  | .setChannelParameters _ _ _ _ _ _ | .startChannel _ _ | .stopChannel _ | .selectSite _ _ | .planPoint _ | .completion
  | .keyedPeriodEnd | .readyLoss _ | .cellEnd | .referenceLost | .restoreGap | .restored _ | .reset | .resetEnd _
  | .symbolTime _ | .sampleTime => true
  | _ => false

theorem exec_airKept (i : Instr) (still : movesAir i = false) (h : exec i s = .next t) : s.airKept t := by
  cases i with
  | raise => cases h; exact State.airKept_takeRequest (raiseBody_airKept _ _ _ _ _)
  | cancel => cases h; exact State.airKept_takeRequest (cancelBody_airKept _)
  | escalate => cases h; exact State.airKept_takeRequest (escalateBody_airKept _ _)
  | markDeparted => cases h; exact State.airKept_takeRequest (markDepartedBody_airKept _)
  | release => cases h; exact State.airKept_takeRequest (releaseBody_airKept _)
  | recordReply => cases h; exact State.airKept_takeRequest (recordReplyBody_airKept _ _ _ _)
  | markArrived => cases h; exact State.airKept_takeRequest (markArrivedBody_airKept _ _)
  | calloutReply => exact execCalloutReply_airKept h
  | setAvailability => cases h; exact State.airKept_takeRequest (setAvailabilityBody_airKept _ _)
  | writeMember => cases h; exact State.airKept_takeRequest (writeMemberBody_airKept _ _ _ _ _ _ _ _ _)
  | readMember =>
    cases h; refine State.airKept_takeRequest ?_
    unfold readMemberBody; split <;> exact s.airKept_refl
  | writePlanStep => cases h; exact State.airKept_takeRequest (writePlanStepBody_airKept _ _ _ _ _ _ _ _ _ _)
  | writeTemplate => cases h; exact State.airKept_takeRequest (writeTemplateBody_airKept _ _ _ _ _ _)
  | readPlan =>
    cases h; refine State.airKept_takeRequest ?_
    unfold readPlanBody; split <;> exact s.airKept_refl
  | writeToneFrequency =>
    cases h; refine State.airKept_takeRequest ?_
    unfold writeToneFrequencyBody; split <;> exact ⟨rfl, rfl, rfl⟩
  | writeTonePair =>
    cases h; refine State.airKept_takeRequest ?_
    unfold writeTonePairBody; split <;> exact ⟨rfl, rfl, rfl⟩
  | readToneTables => cases h; exact State.airKept_takeRequest s.airKept_refl
  | listCallouts => cases h; exact State.airKept_takeRequest s.airKept_refl
  | readCallout => cases h; exact State.airKept_takeRequest (s.airKept_readNamed _ _)
  | readResponders => cases h; exact State.airKept_takeRequest (s.airKept_readNamed _ _)
  | readCrew => cases h; exact State.airKept_takeRequest (s.airKept_readNamed _ _)
  | readNotice =>
    cases h; refine State.airKept_takeRequest ?_
    unfold readNoticeBody; dsimp only; split <;> exact ⟨rfl, rfl, rfl⟩
  | readStatus => cases h; exact State.airKept_takeRequest s.airKept_refl
  | unknownRequest => cases h; split <;> exact ⟨rfl, rfl, rfl⟩
  | frameOpen => cases h; split <;> exact ⟨rfl, rfl, rfl⟩
  | frameClose => cases h; split <;> exact ⟨rfl, rfl, rfl⟩
  | oneSecondTick => cases h; split <;> exact ⟨rfl, rfl, rfl⟩
  | holdExpiry => exact execHoldExpiry_airKept h
  | frameAssembly => exact execFrameAssembly_airKept h
  | toneCallStart => exact execToneCallStart_airKept h
  | selfTestEnd => cases h; split <;> exact ⟨rfl, rfl, rfl⟩
  | setChannelParameters | startChannel | stopChannel | selectSite | planPoint | completion | keyedPeriodEnd | readyLoss
  | cellEnd | referenceLost | restoreGap | restored | reset | resetEnd | symbolTime | sampleTime => cases still

/-- A clock period leaves the air as it is: only the phase and the measurement move (R183, R185). -/
theorem State.airKept_clockPeriod (s : State) : s.airKept s.clockPeriod := by
  obtain ⟨frame, sup, -⟩ := s.clockPeriod_frame
  exact ⟨(congrArg State.channel frame :), by rw [sup], (congrArg (fun u : State => u.tx.sample) frame :)⟩

end Sys2Proof.Machine
end

section
/-! PROOF. The laws of the channel (R107, R112, R116, R117, R122) are kept by every step. -/

namespace Sys2Proof.Machine

open Sys2Proof

variable {s t u : State} {p : Port}

/-! ### Plans that stand alike -/

/-- The cycle plan holds the same items at the same symbols, in whatever states. -/
def State.sameLayout (s t : State) : Prop :=
  ∃ f : PlannedItem → ItemState, t.channel.plan = s.channel.plan.map fun e => { e with state := f e }

theorem State.sameLayout_of_eq (plan : t.channel.plan = s.channel.plan) : s.sameLayout t :=
  ⟨PlannedItem.state, plan.trans (List.map_id' _).symm⟩

theorem State.sameLayout_trans (h : s.sameLayout t) (g : t.sameLayout u) : s.sameLayout u := by
  obtain ⟨f, planned⟩ := h
  obtain ⟨f', planned'⟩ := g
  refine ⟨fun e => f' { e with state := f e }, ?_⟩
  rw [planned', planned, List.map_map]
  rfl

theorem State.sameLayout_returnUnsent (s : State) : s.sameLayout s.returnUnsent := by
  refine ⟨fun e => if e.unsent then .returned else e.state, ?_⟩
  rw [s.returnUnsent_frame.2]
  refine List.map_congr_left fun e _ => ?_
  dsimp only
  split <;> rfl

theorem State.sameLayout_markItem (s : State) (e : PlannedItem) (x : ItemState) : s.sameLayout (s.markItem e x) := by
  refine ⟨fun d => if d = e then x else d.state, List.map_congr_left fun d _ => ?_⟩
  dsimp only
  split <;> rfl

/-- The states of planned items do not move the end of the keyed period (R122). -/
theorem periodEnd_map (f : PlannedItem → ItemState) (plan : List PlannedItem) :
    periodEnd (plan.map fun e => { e with state := f e }) = periodEnd plan := by
  unfold periodEnd
  rw [List.getLast?_map]
  cases plan.getLast? <;> rfl

theorem State.sameLayout.periodEnd (same : s.sameLayout t) : periodEnd t.channel.plan = periodEnd s.channel.plan := by
  obtain ⟨f, planned⟩ := same
  rw [planned, periodEnd_map]

theorem State.sameLayout.fits (same : s.sameLayout t) (fits : s.cyclePlanFits) : t.cyclePlanFits := by
  obtain ⟨f, planned⟩ := same
  obtain ⟨laid, budget⟩ := fits
  refine ⟨planned ▸ (laidOut_map f 240 _).2 laid, ?_⟩
  rw [planned, List.map_map]
  exact budget

/-! ### What keeps the law -/

/-- A step that leaves the position and the layout of the plan keeps the law, if it keys no site and starts or ends no cycle. -/
theorem State.keyingLaw.kept (law : s.keyingLaw) (layout : s.sameLayout t) (pos : t.channel.pos = s.channel.pos)
    (cycling : t.channel.state.cycling = s.channel.state.cycling) (clock : t.sup.clock = s.sup.clock)
    (keyed : t.channel.keyed = s.channel.keyed ∨ t.channel.keyed = none) : t.keyingLaw := by
  obtain ⟨fits, sections, runs, reference, within⟩ := law
  unfold State.keyingLaw
  rw [pos, cycling, clock]
  refine ⟨layout.fits fits, sections, runs, reference, fun isKeyed => ?_⟩
  have before : s.channel.keyedWithin := by
    rcases keyed with same | none
    · exact within (same ▸ isKeyed)
    · rw [none] at isKeyed
      cases isKeyed
  unfold Channel.keyedWithin at before ⊢
  rw [pos, layout.periodEnd]
  exact before

theorem State.airKept.keyingLaw (kept : s.airKept t) (law : s.keyingLaw) : t.keyingLaw :=
  law.kept (State.sameLayout_of_eq (congrArg Channel.plan kept.channel)) (congrArg Channel.pos kept.channel)
    (congrArg (fun c => c.state.cycling) kept.channel) kept.clock (.inl (congrArg Channel.keyed kept.channel))

/-- A channel with no cycle and no site keyed keeps the law, whatever the clock. -/
theorem State.keyingLaw_idle (fits : t.cyclePlanFits) (pos : t.channel.pos = .absent)
    (idle : t.channel.state.cycling = false) (unkeyed : t.channel.keyed = none) : t.keyingLaw := by
  unfold State.keyingLaw
  rw [pos, idle, unkeyed]
  exact ⟨fits, trivial, by simp, nofun, nofun⟩

theorem State.keyingLaw.idle (law : s.keyingLaw) (idle : s.channel.state.cycling = false) :
    s.channel.pos = .absent ∧ s.channel.keyed = none := by
  obtain ⟨-, -, runs, -, within⟩ := law
  have absent : s.channel.pos = .absent := by
    by_contra present
    rw [runs.2 present] at idle
    cases idle
  refine ⟨absent, ?_⟩
  by_contra keyed
  have before := within (Option.isSome_iff_ne_none.2 keyed)
  unfold Channel.keyedWithin at before
  rw [absent] at before
  exact before

/-! ### The channel's operations -/

theorem State.cyclePlanFits_buildPlan (s : State) : s.buildPlan.cyclePlanFits := by
  refine ⟨laidOut_layOut _ _, ?_⟩
  have cost := sum_cost_layOut 240 ((planTurns Config.outboundBudget s.waiting).flatMap (·.planned))
  exact cost.trans_le (costOf_planTurns_le _ _)

theorem State.sameLayout_openCycle (s : State) (lone : Bool) (pins : SitePins) :
    s.buildPlan.sameLayout (s.openCycle lone pins) := by
  cases keyed : (s.openCycle lone pins).channel.keyed with
  | none => exact ⟨fun _ => .returned, (State.openCycle_returned keyed).2.1⟩
  | some x => exact State.sameLayout_of_eq (State.openCycle_keyed keyed).1

/-- A plan point opens a G section, where a keyed site is within its period (R112, R122). -/
theorem State.keyingLaw_openCycle (s : State) (lone : Bool) (pins : SitePins) (cycling : s.channel.state.cycling = true)
    (reference : s.sup.clock = .reference) : (s.openCycle lone pins).keyingLaw := by
  have fits := (s.sameLayout_openCycle lone pins).fits s.cyclePlanFits_buildPlan
  obtain ⟨-, pos, -, -, channel, -, -, frame⟩ := s.openCycle_fields lone pins
  have state : (s.openCycle lone pins).channel.state = s.channel.state := (congrArg Channel.state channel :)
  have sup : (s.openCycle lone pins).sup = s.sup := (congrArg State.sup frame :)
  unfold State.keyingLaw Channel.keyedWithin
  rw [pos, state, sup, cycling, reference]
  exact ⟨fits, show 0 < 240 by decide, by simp, fun _ => rfl, fun _ => trivial⟩

theorem State.keyingLaw_stopChannel (why : ChannelCause) (fits : s.cyclePlanFits) : (s.stopChannel why).keyingLaw := by
  obtain ⟨channel, -⟩ := s.stopChannel_frame why
  have plan : (s.stopChannel why).channel.plan = s.channel.plan := by rw [channel]
  refine State.keyingLaw_idle ((State.sameLayout_of_eq plan).fits fits) ?_ ?_ ?_ <;> rw [channel]
  rfl

theorem State.sameLayout_cutOff (s : State) : s.sameLayout s.cutOff :=
  State.sameLayout_trans s.sameLayout_returnUnsent (State.sameLayout_of_eq rfl)

/-- The clock may be lost at once: the reaction of the channel leaves no cycle to run (R129). -/
theorem State.keyingLaw_loseClock (before : s.keyingLaw) (layout : s.channel = t.channel) : t.loseClock.keyingLaw := by
  have fits : t.cyclePlanFits := (State.sameLayout_of_eq (congrArg Channel.plan layout).symm).fits before.1
  have cutFits := t.sameLayout_cutOff.fits fits
  have stopped : t.channel.state.cycling = false → t.loseClock.keyingLaw := fun idle => by
    obtain ⟨pos, keyed⟩ := before.idle (layout ▸ idle)
    have still : t.loseClock = t := if_neg (by rw [idle]; decide)
    rw [still]
    exact State.keyingLaw_idle fits (layout ▸ pos) idle (layout ▸ keyed)
  cases state : t.channel.state with
  | running =>
    rw [State.loseClock_running state]
    exact State.keyingLaw_idle ((State.sameLayout_of_eq rfl).fits cutFits) rfl rfl rfl
  | stopping =>
    rw [State.loseClock_stopping state]
    exact State.keyingLaw_stopChannel .clockLost cutFits
  | stopped => exact stopped (by rw [state]; rfl)
  | suspended => exact stopped (by rw [state]; rfl)

theorem State.keyingLaw_loseReference (law : s.keyingLaw) : s.loseReference.keyingLaw :=
  State.keyingLaw_loseClock law rfl

theorem State.complete_channel (s : State) (e : PlannedItem) : (s.complete e).channel = (s.markItem e .sent).channel :=
  (congrArg State.channel (State.matchCompletion_frame _ e.item).1 :)

theorem State.complete_sup (s : State) (e : PlannedItem) : (s.complete e).sup = s.sup :=
  (congrArg State.sup (State.matchCompletion_frame _ e.item).1 :)

/-! ### A symbol time (R112, R122) -/

theorem State.sameLayout_sendSymbol (s : State) (n : Nat) : s.sameLayout (s.sendSymbol n) := by
  unfold State.sendSymbol
  split
  · exact State.sameLayout_of_eq rfl
  · split
    · exact State.sameLayout_of_eq rfl
    · split
      · exact State.sameLayout_of_eq rfl
      · rename_i e _
        dsimp only
        split
        · exact State.sameLayout_trans (s.sameLayout_markItem e .onAir) (State.sameLayout_of_eq rfl)
        · exact State.sameLayout_of_eq rfl

theorem State.sampleReply_channel (s : State) (n : Nat) (pins : RxPins) : (s.sampleReply n pins).channel = s.channel := by
  unfold State.sampleReply
  split <;> rfl

theorem State.sameLayout_advanceSymbol (s : State) (pins : RxPins) : s.sameLayout (s.advanceSymbol pins) := by
  unfold State.advanceSymbol
  split
  · exact State.sameLayout_of_eq rfl
  · split <;> exact State.sameLayout_of_eq rfl
  · rename_i n _
    dsimp only
    split
    · refine State.sameLayout_trans (s.sameLayout_sendSymbol n) (State.sameLayout_of_eq ?_)
      exact (congrArg Channel.plan (State.sampleReply_channel _ n pins) :)
    · refine State.sameLayout_of_eq ?_
      exact (congrArg Channel.plan (State.sampleReply_channel _ n pins) :)

/-- With no event due, a keyed site has its end of period before it, and the position its plan point (R112, R122). -/
theorem State.before_of_no_event {n : Nat} (quiet : s.eventDue = false) (here : s.channel.pos = .cycle n) :
    (s.channel.keyed.isSome = true → n ≠ periodEnd s.channel.plan) ∧ (s.channel.state.cycling = true → n ≠ 23760) := by
  simp only [State.eventDue, Bool.or_eq_false_iff] at quiet
  obtain ⟨⟨⟨-, ending⟩, cell⟩, planPoint⟩ := quiet
  refine ⟨fun keyed last => ?_, fun cycling last => ?_⟩
  · rw [State.periodEnding, keyed, here, last, Bool.true_and, decide_eq_false_iff_not] at ending
    exact ending rfl
  · rw [State.planPointDue, cycling, here, last, Option.isSome_eq_false_iff.1 cell] at planPoint
    exact absurd planPoint (by decide)

/-- A keyed period ends within the O section (R116, R122). -/
theorem State.periodEnd_le (fits : s.cyclePlanFits) : periodEnd s.channel.plan ≤ 18000 := by
  rw [periodEnd_laidOut fits.1]
  have := fits.2
  omega

/-- No symbol of a reply section is taken with a site keyed (R122). -/
theorem State.unkeyed_of_reply {n : Nat} (law : s.keyingLaw) (here : s.channel.pos = .cycle n) (reply : 18000 ≤ n)
    (quiet : s.eventDue = false) : s.channel.keyed = none := by
  obtain ⟨fits, -, -, -, within⟩ := law
  by_contra keyed
  have isKeyed := Option.isSome_iff_ne_none.2 keyed
  have before := within isKeyed
  have apart := (State.before_of_no_event quiet here).1 isKeyed
  have last := State.periodEnd_le fits
  unfold Channel.keyedWithin at before
  rw [here] at before
  dsimp only at before
  omega

theorem State.advanceSymbol_lead {lone : Bool} {j : Nat} (pins : RxPins) (here : s.channel.pos = .lead lone j) :
    (s.advanceSymbol pins).channel.pos = afterLead lone j := by
  simp only [State.advanceSymbol, here]

theorem State.advanceSymbol_cycle {n : Nat} (pins : RxPins) (here : s.channel.pos = .cycle n) :
    (s.advanceSymbol pins).channel.pos = .cycle (n + 1) := by
  simp only [State.advanceSymbol, here]

theorem afterLead_cases (lone : Bool) (j : Nat) :
    afterLead lone j = .lead lone (j + 1) ∧ j + 1 < 240 ∨ afterLead lone j = .cycle 0 := by
  unfold afterLead
  split
  · exact .inl ⟨rfl, by assumption⟩
  · exact .inr rfl

theorem State.keyingLaw_advanceSymbol (law : s.keyingLaw) (cycling : s.channel.state.cycling = true)
    (quiet : s.eventDue = false) (pins : RxPins) : (s.advanceSymbol pins).keyingLaw := by
  have layout := s.sameLayout_advanceSymbol pins
  obtain ⟨frame, channel⟩ := s.advanceSymbol_frame pins
  have state : (s.advanceSymbol pins).channel.state = s.channel.state := by rw [channel]
  have keyed : (s.advanceSymbol pins).channel.keyed = s.channel.keyed := by rw [channel]
  have sup : (s.advanceSymbol pins).sup = s.sup := (congrArg State.sup frame :)
  obtain ⟨fits, sections, runs, reference, within⟩ := law
  have moved : ∀ pos : CyclePos, (s.advanceSymbol pins).channel.pos = pos → pos.inRange → pos ≠ .absent →
      (s.channel.keyed.isSome = true → ({ s.channel with pos := pos } : Channel).keyedWithin) →
      (s.advanceSymbol pins).keyingLaw := by
    intro pos here inside present stillWithin
    unfold State.keyingLaw
    rw [here, state, keyed, sup]
    refine ⟨layout.fits fits, inside, ⟨fun _ => present, fun _ => cycling⟩, reference, fun isKeyed => ?_⟩
    have after := stillWithin isKeyed
    unfold Channel.keyedWithin at after ⊢
    rw [here, layout.periodEnd]
    exact after
  cases here : s.channel.pos with
  | absent => exact absurd here (runs.1 cycling)
  | lead lone j =>
    have next := State.advanceSymbol_lead pins here
    rcases afterLead_cases lone j with ⟨lead, short⟩ | first
    · exact moved _ (next.trans lead) short nofun fun _ => trivial
    · exact moved _ (next.trans first) (Nat.zero_le _) nofun fun _ => Nat.zero_le _
  | cycle n =>
    obtain ⟨ends, wraps⟩ := State.before_of_no_event quiet here
    rw [here] at sections
    have short : n ≤ 23760 := sections
    have more := wraps cycling
    refine moved _ (State.advanceSymbol_cycle pins here) (show n + 1 ≤ 23760 by omega) nofun fun isKeyed => ?_
    have before := within isKeyed
    have apart := ends isKeyed
    unfold Channel.keyedWithin at before ⊢
    rw [here] at before
    exact Nat.lt_of_le_of_ne before apart

/-! ### Every command -/

theorem State.keyingLaw_takeRequest {perm : Permission} {body : State → Taken} (law : s.keyingLaw)
    (kept : (body s).1.keyingLaw) : (s.takeRequest p perm body).keyingLaw :=
  State.takeRequest_cases law (fun _ => State.airKept.keyingLaw ⟨rfl, rfl, rfl⟩ law)
    (State.airKept.keyingLaw ⟨rfl, rfl, rfl⟩ kept)

theorem setChannelParametersBody_keyingLaw (law : s.keyingLaw) (station limit threshold mode level : Byte) :
    (setChannelParametersBody station limit threshold mode level s).1.keyingLaw := by
  unfold setChannelParametersBody
  split
  · exact law
  · split
    · exact law
    · split
      · exact law
      · exact law.kept (State.sameLayout_of_eq rfl) rfl rfl rfl (.inl rfl)

theorem startChannelBody_keyingLaw (law : s.keyingLaw) (pins : SitePins) : (startChannelBody pins s).1.keyingLaw := by
  unfold startChannelBody
  split
  · exact law
  · rename_i stopped
    rw [ne_eq, not_not] at stopped
    have idle : s.channel.state.cycling = false := by rw [stopped]; rfl
    split
    · exact State.keyingLaw_openCycle _ true pins rfl (by assumption)
    · exact law.kept (State.sameLayout_of_eq rfl) rfl idle.symm rfl (.inl rfl)

theorem stopChannelBody_keyingLaw (law : s.keyingLaw) : (stopChannelBody s).1.keyingLaw := by
  unfold stopChannelBody done
  split
  · rename_i running
    have cycling : s.channel.state.cycling = true := by rw [running]; rfl
    exact law.kept (State.sameLayout_of_eq rfl) rfl cycling.symm rfl (.inl rfl)
  · dsimp only
    exact State.keyingLaw_stopChannel .stop law.1
  · exact law

theorem selectSiteBody_keyingLaw (law : s.keyingLaw) (site : Byte) : (selectSiteBody site s).1.keyingLaw := by
  unfold selectSiteBody
  split
  · exact law
  · rename_i x _
    show (s.select x .request).keyingLaw
    rw [State.select_eq]
    exact law.kept (State.sameLayout_of_eq rfl) rfl rfl rfl (.inl rfl)

theorem execPlanPoint_keyingLaw (law : s.keyingLaw) (pins : SitePins) (h : execPlanPoint pins s = .next t) :
    t.keyingLaw := by
  cases h
  split
  · rename_i due
    have cycling : s.channel.state.cycling = true := by
      simp only [State.planPointDue, Bool.and_eq_true] at due
      exact due.2.1.1
    split
    · exact State.keyingLaw_openCycle s false pins cycling (law.2.2.2.1 cycling)
    · exact State.keyingLaw_stopChannel .endOfCycle law.1
  · exact law

theorem execCompletion_keyingLaw (law : s.keyingLaw) (h : execCompletion s = .next t) : t.keyingLaw := by
  cases h
  split
  · split
    · rename_i e _
      have channel := s.complete_channel e
      refine law.kept ?_ ?_ ?_ ?_ (.inl ?_)
      · exact State.sameLayout_trans (s.sameLayout_markItem e .sent) (State.sameLayout_of_eq (congrArg Channel.plan channel))
      · exact (congrArg Channel.pos channel :)
      · exact (congrArg (fun c => c.state.cycling) channel :)
      · rw [s.complete_sup]
      · exact (congrArg Channel.keyed channel :)
    · exact law
  · exact law

theorem execReadyLoss_keyingLaw (law : s.keyingLaw) (site : Site) (h : execReadyLoss site s = .next t) : t.keyingLaw := by
  cases h
  split
  · have returned := State.returnUnsent_frame { s with inputs := s.inputs.unready site }
    obtain ⟨frame, channel⟩ := returned
    refine law.kept ?_ ?_ ?_ ?_ (.inr rfl)
    · exact State.sameLayout_trans (s := s) (State.sameLayout_returnUnsent { s with inputs := s.inputs.unready site })
        (State.sameLayout_of_eq rfl)
    · exact (congrArg Channel.pos channel :)
    · exact (congrArg (fun c => c.state.cycling) channel :)
    · exact (congrArg (fun u : State => u.sup.clock) frame :)
  · exact law

/-- The end of a cell moves no more of the channel than its quality (R128). -/
theorem State.endCell_channel (s : State) (k : MemberIdx) :
    (s.endCell k).channel = { s.channel with quality := (s.endCell k).channel.quality } := by
  by_cases last : k = 95
  · subst last
    rw [endCell_last_channel.2]
  · rw [(endCell_before_channel last).2]

theorem execCellEnd_keyingLaw (law : s.keyingLaw) (h : execCellEnd s = .next t) : t.keyingLaw := by
  cases h
  split
  · split
    · rename_i k _
      split
      · exact law
      · have channel := s.endCell_channel k
        have sup : (s.endCell k).sup = s.sup := (congrArg State.sup (endCell_rest (s := s) (k := k)) :)
        exact law.kept (State.sameLayout_of_eq (by rw [channel])) (by rw [channel]) (by rw [channel]) (by rw [sup])
          (.inl (by rw [channel]))
    · exact law
  · exact law

theorem execRestoreGap_keyingLaw (law : s.keyingLaw) (h : execRestoreGap s = .next t) : t.keyingLaw := by
  cases h
  split
  · exact law
  · split
    · exact State.keyingLaw_loseReference law
    · split
      · exact law
      · exact State.airKept.keyingLaw ⟨rfl, rfl, rfl⟩ law

/-- The restore finds no cycle running, and a Suspended channel opens one (R129, R130). -/
theorem execRestored_keyingLaw (law : s.keyingLaw) (pins : SitePins) (h : execRestored pins s = .next t) : t.keyingLaw := by
  cases h
  split
  · rename_i due
    have internal : s.sup.clock = .internal := by
      simp only [Bool.and_eq_true, decide_eq_true_eq] at due
      exact due.1.2
    have idle : s.channel.state.cycling = false := by
      rw [← Bool.not_eq_true]
      intro cycling
      have reference := law.2.2.2.1 cycling
      rw [internal] at reference
      cases reference
    obtain ⟨pos, keyed⟩ := law.idle idle
    dsimp only
    unfold State.resumeChannel
    split
    · exact State.keyingLaw_openCycle _ true pins rfl rfl
    · exact State.keyingLaw_idle ((State.sameLayout_of_eq rfl).fits law.1) pos idle keyed
  · exact law

theorem exec_keyingLaw (i : Instr) (law : s.keyingLaw) (h : exec i s = .next t) : t.keyingLaw := by
  cases still : movesAir i with
  | false => exact (exec_airKept i still h).keyingLaw law
  | true =>
    cases i with
    | setChannelParameters => cases h; exact State.keyingLaw_takeRequest law (setChannelParametersBody_keyingLaw law _ _ _ _ _)
    | startChannel => cases h; exact State.keyingLaw_takeRequest law (startChannelBody_keyingLaw law _)
    | stopChannel => cases h; exact State.keyingLaw_takeRequest law (stopChannelBody_keyingLaw law)
    | selectSite => cases h; exact State.keyingLaw_takeRequest law (selectSiteBody_keyingLaw law _)
    | planPoint pins => exact execPlanPoint_keyingLaw law pins h
    | completion => exact execCompletion_keyingLaw law h
    | keyedPeriodEnd =>
      cases h
      split
      · exact law.kept (State.sameLayout_of_eq rfl) rfl rfl rfl (.inr rfl)
      · exact law
    | readyLoss site => exact execReadyLoss_keyingLaw law site h
    | cellEnd => exact execCellEnd_keyingLaw law h
    | referenceLost =>
      cases h
      split
      · exact State.keyingLaw_loseReference law
      · exact law
    | restoreGap => exact execRestoreGap_keyingLaw law h
    | restored pins => exact execRestored_keyingLaw law pins h
    | reset => cases h; exact law.kept (State.sameLayout_of_eq rfl) rfl rfl rfl (.inr rfl)
    | resetEnd pins =>
      cases h
      split
      · exact State.keyingLaw_idle ⟨trivial, Nat.zero_le _⟩ rfl rfl rfl
      · exact law
    | symbolTime pins =>
      cases h
      split
      · rename_i due
        simp only [Bool.and_eq_true, Bool.not_eq_true'] at due
        exact State.keyingLaw_advanceSymbol law due.1.2 due.2 pins
      · exact law
    | sampleTime =>
      cases h
      split
      · exact law.kept (State.sameLayout_of_eq rfl) rfl rfl rfl (.inl rfl)
      · exact law
    | _ => cases still

/-- A symbol time keys no site and releases none (R112). -/
theorem exec_symbolTime_keyed (pins : RxPins) (h : exec (.symbolTime pins) s = .next t) : t.channel.keyed = s.channel.keyed := by
  have taken : execSymbolTime pins s = .next t := h
  cases taken
  split
  · rw [(s.advanceSymbol_frame pins).2]
  · rfl

/-- Settles O48: command by command, and the reply section by the end of the keyed period. -/
theorem sitesAreKeyedOnlyWithinTheirPeriod : Obligations.SitesAreKeyedOnlyWithinTheirPeriod := by
  refine ⟨fun s t law h => ?_, fun s t pins n law here reply quiet => ?_⟩
  · unfold step at h
    split at h
    · cases h
      exact s.airKept_clockPeriod.keyingLaw law
    · rename_i i rest _
      exact exec_keyingLaw (s := { s with pending := rest }) i law h
  · have unkeyed := State.unkeyed_of_reply law here reply quiet
    refine ⟨unkeyed, fun site taken => ?_⟩
    rw [State.ptt, exec_symbolTime_keyed pins taken, unkeyed]
    rfl

end Sys2Proof.Machine
end

section
/-! PROOF. The four outcomes of the keying decision (R121, R124). -/

namespace Sys2Proof.Machine

open Sys2Proof

variable {s : State} {pins : SitePins} {sel oth : Site}

theorem otherSite_of_ne (other : oth ≠ sel) : otherSite sel = oth := by
  revert other
  cases sel <;> cases oth <;> decide

/-! ### The notices of a fault (R124, R190) -/

theorem siteFaultNotice_notReady (cycle : Half) : siteFaultNotice sel (some oth) .selectedNotReady 0 cycle =
    ⟨.siteFault, 0, 255, siteCode sel * 64 + siteCode oth * 16, 0, cycle.extractLsb' 8 8, cycle.extractLsb' 0 8⟩ := by
  cases sel <;> cases oth <;> rfl

theorem siteFaultNotice_neither (unsent : Nat) (cycle : Half) : siteFaultNotice sel none .neitherReady unsent cycle =
    ⟨.siteFault, 0, 255, siteCode sel * 64 + 33, byteOf unsent, cycle.extractLsb' 8 8, cycle.extractLsb' 0 8⟩ := by
  cases sel <;> rfl

theorem siteFaultNotice_lost (unsent : Nat) (cycle : Half) : siteFaultNotice sel none .readyLost unsent cycle =
    ⟨.siteFault, 0, 255, siteCode sel * 64 + 34, byteOf unsent, cycle.extractLsb' 8 8, cycle.extractLsb' 0 8⟩ := by
  cases sel <;> rfl

/-- The items still to be sent are those Pending and the one On air (R117). -/
theorem State.length_unsent (s : State) :
    s.unsent.length = s.channel.plan.countP fun e => e.state = .pending || e.state = .onAir := by
  rw [State.unsent, ← List.countP_eq_length_filter]
  refine List.countP_congr fun e _ => ?_
  rw [PlannedItem.unsent_iff, Bool.or_eq_true, decide_eq_true_eq, decide_eq_true_eq]

/-! ### The rows (R121) -/

theorem State.keyingDecision_selected (ready : readyOf pins s.channel.selected = true) :
    s.keyingDecision pins = s.key s.channel.selected := by
  simp only [State.keyingDecision, ready, if_true]

section Spare

variable (unready : readyOf pins s.channel.selected = false)
include unready

theorem State.keyingDecision_failover (spare : readyOf pins (otherSite s.channel.selected) = true)
    (request : s.channel.mode = .request) : s.keyingDecision pins =
      (s.select (otherSite s.channel.selected) .failover).key (otherSite s.channel.selected) := by
  simp only [State.keyingDecision, unready, spare, request, if_true, Bool.false_eq_true, if_false]

theorem State.keyingDecision_pinned (spare : readyOf pins (otherSite s.channel.selected) = true)
    (pin : s.channel.mode = .pin) : s.keyingDecision pins = (s.key (otherSite s.channel.selected)).raiseNotice .every
      (siteFaultNotice s.channel.selected (some (otherSite s.channel.selected)) .selectedNotReady 0 s.channel.cycle) := by
  simp only [State.keyingDecision, unready, spare, pin, if_true, Bool.false_eq_true, if_false]

theorem State.keyingDecision_neither (unready' : readyOf pins (otherSite s.channel.selected) = false) :
    s.keyingDecision pins = s.returnUnsent.unkey.raiseNotice .every
      (siteFaultNotice s.channel.selected none .neitherReady s.unsent.length s.channel.cycle) := by
  simp only [State.keyingDecision, unready, unready', Bool.false_eq_true, if_false]

end Spare

/-- A selection that changes the site tells every port (R119, R124). -/
theorem State.select_other (other : sel ≠ s.channel.selected) (why : SiteChangeCause) : s.select sel why =
    { s with channel := { s.channel with selected := sel } }.raiseNotice ⟨true, true, true⟩
      ⟨.siteChanged, 0, 255, siteCode sel * 16 + siteCode s.channel.selected, why.code, s.channel.cycle.extractLsb' 8 8,
        s.channel.cycle.extractLsb' 0 8⟩ := if_neg other

/-- Settles O46, row by row. -/
theorem keyingDecisionFollowsTheReadyInputs : Obligations.KeyingDecisionFollowsTheReadyInputs := by
  rintro s pins sel oth rfl other ready hiCycle loCycle
  have here : readyOf pins s.channel.selected = ready s.channel.selected := readyOf_eq _ _
  have there : readyOf pins oth = ready oth := readyOf_eq _ _
  have spare := otherSite_of_ne other
  rw [← here, ← there, ← spare]
  refine ⟨State.keyingDecision_selected, fun unready ready' => ⟨fun request => ?_, fun pin => ?_⟩, fun unready none => ?_⟩
  · rw [State.keyingDecision_failover unready ready' request, State.select_other (otherSite_ne _)]
    rfl
  · rw [State.keyingDecision_pinned unready ready' pin, siteFaultNotice_notReady]
    rfl
  · rw [State.keyingDecision_neither unready none, siteFaultNotice_neither, State.length_unsent]
    rfl

end Sys2Proof.Machine
end

section
/-! PROOF. The channel's requests (R58, R108 to R111, R119). -/

namespace Sys2Proof.Machine

open Sys2Proof

variable {s : State} {p : Port} {pins : SitePins} {station limit threshold mode level site : Byte}

/-! ### Set channel parameters (R111) -/

theorem readMode_none (out : 1 < mode.toNat) : readMode mode = none := by
  have zero : mode ≠ 0 := by rintro rfl; exact absurd out (by decide)
  have one : mode ≠ 1 := by rintro rfl; exact absurd out (by decide)
  rw [readMode, if_neg zero, if_neg one]

theorem readMode_some (inside : mode.toNat ≤ 1) : readMode mode = some (if mode = 0 then .request else .pin) := by
  rcases byte_zero_or_one (Nat.lt_succ_of_le inside) with rfl | rfl <;> rfl

theorem storedThreshold_eq (b : Byte) : storedThreshold b = max 1 (min 96 b.toNat) := by
  unfold storedThreshold
  split
  · rename_i zero
    subst zero
    rfl
  · rename_i nonzero
    have positive : b.toNat ≠ 0 := fun zero => nonzero (BitVec.eq_of_toNat_eq zero)
    show min 96 b.toNat = _
    omega

theorem setChannelParametersBody_running (running : s.channel.state ≠ .stopped) :
    setChannelParametersBody station limit threshold mode level s = refuse s .state := if_pos running

section Stopped

variable (stopped : s.channel.state = .stopped)
include stopped

theorem setChannelParametersBody_range (out : 7 < limit.toNat ∨ 1 < mode.toNat) :
    setChannelParametersBody station limit threshold mode level s = refuse s .range := by
  have idle : ¬s.channel.state ≠ .stopped := not_not.2 stopped
  by_cases unread : 1 < mode.toNat
  · simp only [setChannelParametersBody, if_neg idle, readMode_none unread]
  · simp only [setChannelParametersBody, if_neg idle, readMode_some (Nat.le_of_not_lt unread), out.resolve_right unread, if_true]

theorem setChannelParametersBody_stored (low : limit.toNat ≤ 7) (read : mode.toNat ≤ 1) :
    setChannelParametersBody station limit threshold mode level s = done { s with channel := { s.channel with
      station := station
      distanceLimit := BitVec.ofNat 3 limit.toNat
      degradeThreshold := max 1 (min 96 threshold.toNat)
      mode := if mode = 0 then .request else .pin
      level := BitVec.ofNat 4 (min 15 level.toNat) } } [] := by
  have idle : ¬s.channel.state ≠ .stopped := not_not.2 stopped
  simp only [setChannelParametersBody, if_neg idle, readMode_some read, if_neg (Nat.not_lt.2 low), storedThreshold_eq]
  rfl

end Stopped

/-! ### Select site (R119) -/

theorem readSite_none (out : 2 ≤ site.toNat) : readSite site = none := by
  have zero : site ≠ 0 := by rintro rfl; exact absurd out (by decide)
  have one : site ≠ 1 := by rintro rfl; exact absurd out (by decide)
  rw [readSite, if_neg zero, if_neg one]

theorem readSite_some {x : Site} (read : site = 0 ∧ x = .a ∨ site = 1 ∧ x = .b) : readSite site = some x := by
  rcases read with ⟨rfl, rfl⟩ | ⟨rfl, rfl⟩ <;> rfl

/-! ### The commands -/

/-- A channel request of a Station-class port is carried out by its own rule (R170). -/
theorem State.takesStation.taken {body : State → Taken} (taken : s.takesStation p) :
    s.takeRequest p .stationOnly body = (body s).1.respond p (body s).2 := State.takeRequest_station taken.1 taken.2

theorem exec_setChannelParameters (taken : s.takesStation p) :
    exec (.setChannelParameters p station limit threshold mode level) s =
      .next ((setChannelParametersBody station limit threshold mode level s).1.respond p
        (setChannelParametersBody station limit threshold mode level s).2) :=
  congrArg Host.Outcome.next taken.taken

theorem exec_selectSite (taken : s.takesStation p) :
    exec (.selectSite p site) s = .next ((selectSiteBody site s).1.respond p (selectSiteBody site s).2) :=
  congrArg Host.Outcome.next taken.taken

theorem exec_stopChannel (taken : s.takesStation p) :
    exec (.stopChannel p) s = .next ((stopChannelBody s).1.respond p (stopChannelBody s).2) :=
  congrArg Host.Outcome.next taken.taken

/-- Start channel is refused in fault mode (R167, R170). -/
theorem exec_startChannel (taken : s.takesStation p) (working : s.faultMode = false) :
    exec (.startChannel p pins) s = .next ((startChannelBody pins s).1.respond p (startChannelBody pins s).2) :=
  congrArg Host.Outcome.next (State.takeRequest_taken taken.1 (fun _ => taken.2) fun _ => working)

theorem selectSiteBody_read {x : Site} (read : readSite site = some x) :
    selectSiteBody site s = done (s.select x .request) [] := by
  simp only [selectSiteBody, read]

theorem startChannelBody_internal (stopped : s.channel.state = .stopped) (internal : s.sup.clock = .internal) :
    startChannelBody pins s = done (s.changeChannel .suspended .start) [] := by
  simp only [startChannelBody, if_neg (not_not.2 stopped), internal]

theorem startChannelBody_reference (stopped : s.channel.state = .stopped) (reference : s.sup.clock = .reference) :
    startChannelBody pins s = done ((s.changeChannel .running .start).openCycle true pins) [] := by
  simp only [startChannelBody, if_neg (not_not.2 stopped), reference]

theorem stopChannelBody_suspended (suspended : s.channel.state = .suspended) :
    stopChannelBody s = done (s.stopChannel .stop) [] := by
  simp only [stopChannelBody, suspended]

/-- What a response in hand leaves in the ports is theirs alone to say. -/
theorem respond_ports_congr {t u : State} (ports : t.ports = u.ports) (bytes : List Byte) :
    (t.respond p bytes).ports = (u.respond p bytes).ports := by
  simp only [State.respond_ports, State.port, ports]

/-- Settles O44, request by request. -/
theorem channelRequestsTakeEffect : Obligations.ChannelRequestsTakeEffect := by
  intro s p taken hiCycle loCycle moved
  refine ⟨fun station limit threshold mode level => ?_, fun site out => ?_, fun site x read => ⟨fun same => ?_, fun other => ?_⟩,
    fun pins working => ⟨fun running => ?_, fun stopped internal => ?_, fun stopped reference => ?_⟩, fun idle => ?_,
    fun running => ?_, fun suspended => ?_⟩
  · intro set
    have asked : set = _ := exec_setChannelParameters taken
    rw [asked]
    refine ⟨fun running => ?_, fun stopped out => ?_, fun stopped low read => ?_⟩
    · rw [setChannelParametersBody_running running]
      rfl
    · rw [setChannelParametersBody_range stopped out]
      rfl
    · rw [setChannelParametersBody_stored stopped low read]
      rfl
  · rw [exec_selectSite taken, selectSiteBody, readSite_none out]
    rfl
  · rw [exec_selectSite taken, selectSiteBody_read (readSite_some read), State.select, if_pos same]
    rfl
  · rw [exec_selectSite taken, selectSiteBody_read (readSite_some read), State.select_other other]
    rfl
  · rw [exec_startChannel taken working, startChannelBody, if_pos running]
    rfl
  · rw [exec_startChannel taken working, startChannelBody_internal stopped internal, State.changeChannel_eq stopped]
    rfl
  · rw [exec_startChannel taken working, startChannelBody_reference stopped reference, State.changeChannel_eq stopped]
    rfl
  · rw [exec_stopChannel taken, stopChannelBody]
    rcases idle with stopped | stopping
    · rw [stopped]
      rfl
    · rw [stopping]
      rfl
  · rw [exec_stopChannel taken, stopChannelBody, running, State.changeChannel_eq running]
    rfl
  · have asked := exec_stopChannel taken
    rw [stopChannelBody_suspended suspended] at asked
    obtain ⟨channel, slots, tx, frame⟩ := s.stopChannel_frame .stop
    have ports := s.stopChannel_ports (w := s) (t := s) .stop rfl rfl rfl fun _ => rfl
    rw [suspended] at ports
    generalize s.stopChannel .stop = t at asked channel slots tx frame ports
    exact ⟨t.respond p [0], asked, channel, slots, tx, respond_ports_congr ports [0], frame⟩

end Sys2Proof.Machine
end

section
/-! PROOF. The end of a keyed period and the return of the items still to be sent (R122, R123, R126, R132). -/

namespace Sys2Proof.Machine

open Sys2Proof

variable {s t : State} {c : Callout} {i : TxItem} {site : Site}

/-! ### A callout's items put back (R126) -/

/-- Whether a returned item goes back to a callout: it carries its number and serial and is of a kind that its lifecycle sends. -/
def Callout.claims (c : Callout) (i : TxItem) : Bool := i.callout = c.number && c.takesBack i

/-- A callout with returned items at the head of its queue, Queued if it is Active and there are any (R47, R126). -/
def Callout.refilled (c : Callout) (items : List TxItem) : Callout :=
  { c with
    queue := items ++ c.queue
    lifecycle := match c.lifecycle with
      | .active ⟨progress, repeats, rate⟩ => .active ⟨if items = [] then progress else .queued, repeats, rate⟩
      | l => l }

theorem Callout.refilled_nil (c : Callout) : c.refilled [] = c := by
  obtain ⟨⟩ := c
  unfold Callout.refilled
  dsimp only
  congr
  split <;> rfl

theorem Callout.putBack_refilled (c : Callout) (items : List TxItem) (i : TxItem) :
    (c.refilled items).putBack i = c.refilled (i :: items) := by
  unfold Callout.putBack Callout.withProgress Callout.refilled
  cases c.lifecycle <;> rfl

theorem Callout.takesBack_refilled (c : Callout) (items : List TxItem) (i : TxItem) :
    (c.refilled items).takesBack i = c.takesBack i := by
  unfold Callout.takesBack Callout.refilled
  cases c.lifecycle <;> rfl

theorem Callout.claims_iff : c.claims i = true ↔ i.callout = c.number ∧ i.serial = c.serial ∧
    (c.isActive = true ∧ i.kind ≠ .standDown ∧ i.kind ≠ .closing ∨
      c.isActive = false ∧ c.lifecycle ≠ .departed ∧ i.kind = .standDown) := by
  have sends : (match c.lifecycle with
      | .active _ => i.kind.isStep
      | .standingDown _ => decide (i.kind = .standDown)
      | .departed => false) = true ↔ c.isActive = true ∧ i.kind ≠ .standDown ∧ i.kind ≠ .closing ∨
        c.isActive = false ∧ c.lifecycle ≠ .departed ∧ i.kind = .standDown := by
    unfold Callout.isActive
    cases c.lifecycle <;> simp [ItemKind.isStep_iff]
  simp only [Callout.claims, Callout.takesBack, Bool.and_eq_true, decide_eq_true_eq, eq_comm (a := c.serial)]
  exact and_congr_right fun _ => and_congr_right fun _ => sends

/-! ### The items returned one by one (R123, R126) -/

/-- The items of a callout among those returned, in plan order. -/
def Callout.share (c : Callout) (l : List PlannedItem) : List TxItem := (l.map (·.item)).filter c.claims

theorem Callout.share_claimed {e : PlannedItem} {rest : List PlannedItem} (claims : c.claims e.item = true) :
    c.share (e :: rest) = e.item :: c.share rest := List.filter_cons_of_pos claims

theorem Callout.share_passed {e : PlannedItem} {rest : List PlannedItem} (passes : c.claims e.item = false) :
    c.share (e :: rest) = c.share rest := List.filter_cons_of_neg (by rw [passes]; exact Bool.false_ne_true)

theorem State.returned_slots (distinct : s.numbersDistinct) (l : List PlannedItem) (k : SlotIdx) :
    (s.returned l).slots[k] = (s.slots[k]).map fun c => c.refilled (c.share l) := by
  induction l generalizing k with
  | nil =>
    show s.slots[k] = _
    cases s.slots[k] with
    | none => rfl
    | some c => exact congrArg some c.refilled_nil.symm
  | cons e rest ih =>
    have passed : ∀ k : SlotIdx, (∀ c ∈ s.slots[k], c.claims e.item = false) →
        (s.returned rest).slots[k] = (s.slots[k]).map fun c => c.refilled (c.share (e :: rest)) := fun k passes => by
      rw [ih k]
      refine Option.map_congr fun c held => ?_
      rw [Callout.share_passed (passes c held)]
    have unnamed : ∀ c : Callout, c.number ≠ e.item.callout → c.claims e.item = false := fun c other => by
      simp [Callout.claims, other.symm]
    show (State.returnItem e.item (s.returned rest)).slots[k] = _
    unfold State.returnItem
    split
    · rename_i j d found
      obtain ⟨held, named⟩ := State.lookup_some found
      rw [ih j] at held
      obtain ⟨c, own, rfl⟩ := Option.map_eq_some_iff.1 held
      have named : c.number = e.item.callout := named
      have others : ∀ k : SlotIdx, k ≠ j → ∀ d ∈ s.slots[k], d.claims e.item = false := fun k other d there =>
        unnamed d fun same => other (distinct k j d there c own (same.trans named.symm))
      rw [Callout.takesBack_refilled, Callout.putBack_refilled]
      split
      · rename_i takes
        have claims : c.claims e.item = true := by simp [Callout.claims, named, takes]
        rw [State.slots_setSlot]
        split
        · rename_i here
          rw [here, own, Option.map_some, Callout.share_claimed claims]
        · rename_i there
          exact passed k (others k there)
      · rename_i refuses
        refine passed k fun d there => ?_
        by_cases here : k = j
        · subst here
          cases own.symm.trans there
          simp [Callout.claims, refuses]
        · exact others k here d there
    · rename_i none
      refine passed k fun c held => unnamed c fun same => ?_
      have stands : (s.returned rest).slots[k] = some (c.refilled (c.share rest)) := by
        rw [ih k, Option.mem_def.1 held]
        rfl
      exact State.lookup_none.1 none k _ stands same

theorem State.returnUnsent_slots (distinct : s.tagsDistinct) (k : SlotIdx) :
    s.returnUnsent.slots[k] = (s.slots[k]).map fun c => c.refilled (c.share s.unsent) :=
  State.returned_slots (State.numbersDistinct_of_tags distinct) s.unsent k

/-- The plan as a return leaves it (R123). -/
theorem State.returnUnsent_plan (s : State) : s.returnUnsent.channel = { s.channel with
    plan := s.channel.plan.map fun e => if e.state = .pending ∨ e.state = .onAir then { e with state := .returned } else e } := by
  rw [s.returnUnsent_frame.2]
  simp only [PlannedItem.unsent_iff]

/-! ### The end of the keyed period (R122) -/

theorem State.periodEnding_iff (fits : s.cyclePlanFits) : s.periodEnding = true ↔
    s.channel.keyed ≠ none ∧ s.channel.pos = .cycle (240 + (s.channel.plan.map (·.cost)).sum) := by
  rw [State.periodEnding, Bool.and_eq_true, Option.isSome_iff_ne_none, decide_eq_true_eq, periodEnd_laidOut fits.1]

theorem exec_keyedPeriodEnd (clocked : s.clocked = true) (ends : s.periodEnding = true) :
    exec .keyedPeriodEnd s = .next s.unkey := by
  show execKeyedPeriodEnd s = _
  rw [execKeyedPeriodEnd, clocked, ends]
  rfl

/-! ### A ready loss (R123, R132) -/

theorem State.unsent_isEmpty_iff : s.unsent.isEmpty = true ↔
    ∀ e ∈ s.channel.plan, e.state ≠ .pending ∧ e.state ≠ .onAir := by
  rw [List.isEmpty_iff, State.unsent, List.filter_eq_nil_iff]
  refine forall_congr' fun e => forall_congr' fun _ => ?_
  rw [PlannedItem.unsent_iff, not_or]

/-- The keyed period is over but for its release once the last item has completed (R132). -/
theorem State.periodSpent_iff : s.periodSpent = true ↔ s.periodEnding = true ∧ s.channel.plan ≠ [] ∧
    ∀ e ∈ s.channel.plan, e.state ≠ .pending ∧ e.state ≠ .onAir := by
  rw [State.periodSpent, Bool.and_eq_true, Bool.and_eq_true, Bool.not_eq_true', State.unsent_isEmpty_iff, and_assoc,
    List.isEmpty_eq_false_iff]

theorem exec_readyLoss_spent (spent : s.periodSpent = true) (site : Site) : exec (.readyLoss site) s = .next s := by
  show execReadyLoss site s = _
  simp only [execReadyLoss, spent, Bool.not_true, Bool.and_false, Bool.false_eq_true, if_false]

theorem exec_readyLoss (released : s.sup.held = false) (keyed : s.channel.keyed = some site) (unspent : s.periodSpent = false) :
    exec (.readyLoss site) s = .next ({ s with inputs := s.inputs.unready site }.loseReady site) := by
  show execReadyLoss site s = _
  simp only [execReadyLoss, released, keyed, unspent, Bool.not_false, decide_true, Bool.and_self, if_true]

/-- Settles O50: the return slot by slot, the end of the period, and the ready loss as a return, a release and a notice. -/
theorem readyLossReturnsItemsInPlanOrder : Obligations.ReadyLossReturnsItemsInPlanOrder := by
  unfold Obligations.ReadyLossReturnsItemsInPlanOrder
  intro unsent back emptied refilled
  have returns : ∀ s t : State, s.tagsDistinct → t.slots = s.returnUnsent.slots → refilled s t := by
    intro s t distinct slots
    refine ⟨fun k free => ?_, fun k c held => ?_⟩
    · rw [slots, State.returnUnsent_slots distinct, free]
      rfl
    · extract_lets returned
      have items : returned = c.share s.unsent := by
        have planned : (s.channel.plan.filter fun e => unsent e) = s.unsent := by
          refine List.filter_congr fun e _ => ?_
          rw [Bool.eq_iff_iff, decide_eq_true_eq, PlannedItem.unsent_iff]
        show ((s.channel.plan.filter fun e => unsent e).map (·.item)).filter (fun i => back c i) = _
        rw [planned]
        refine List.filter_congr fun i _ => ?_
        rw [Bool.eq_iff_iff, decide_eq_true_eq, Callout.claims_iff]
      rw [slots, State.returnUnsent_slots distinct, held, items]
      rfl
  refine ⟨fun s site => by rw [State.ptt, decide_eq_true_eq], fun s => State.periodEnding_iff, fun s distinct =>
    ⟨returns s _ distinct rfl, s.returnUnsent_plan, ?_⟩, fun s clocked ends => exec_keyedPeriodEnd clocked ends,
    fun s site keyed ends planned sent => exec_readyLoss_spent (State.periodSpent_iff.2 ⟨ends, planned, sent⟩) site, ?_⟩
  · exact s.returnUnsent_frame.1
  · intro s site distinct released keyed more
    have unspent : s.periodSpent = false := by
      rw [← Bool.not_eq_true, State.periodSpent_iff]
      rintro ⟨ends, planned, sent⟩
      rcases more with before | empty | ⟨e, there, left⟩
      · rw [ends] at before
        cases before
      · exact planned empty
      · exact left.elim (sent e there).1 (sent e there).2
    have lost : ({ s with inputs := s.inputs.unready site } : State).returnUnsent =
        { s with
          inputs := s.inputs.unready site
          slots := s.returnUnsent.slots
          channel := { s.channel with plan := emptied s.channel.plan } } := by
      rw [State.returnUnsent_congr (s := s) (t := { s with inputs := s.inputs.unready site }) rfl rfl, s.returnUnsent_plan]
    have count : s.unsent.length = s.channel.plan.countP fun e => unsent e := by
      rw [s.length_unsent]
      exact List.countP_congr fun e _ => by simp [unsent]
    refine ⟨_, exec_readyLoss released keyed unspent, ?_⟩
    unfold State.loseReady
    rw [lost]
    refine ⟨rfl, rfl, ?_, returns s _ distinct rfl, by cases site <;> rfl, rfl⟩
    rw [siteFaultNotice_lost, ← count]
    exact raiseNotice_ports_congr rfl rfl _ _

end Sys2Proof.Machine
end

section
/-! PROOF. The symbol time and the sample time (R112, R127, R133, R140 to R143, R145, R152). -/

namespace Sys2Proof.Machine

open Sys2Proof

variable {s : State} {e : PlannedItem} {n : Nat} {pins : RxPins}

/-! ### The events held before a symbol time (log entry 5) -/

theorem State.eventDue_iff : s.eventDue = true ↔ s.completing ≠ none ∨ s.assembling ≠ none ∨ s.startingTone ≠ none ∨
    s.periodEnding = true ∨ s.endingCell ≠ none ∨ s.planPointDue = true := by
  simp only [State.eventDue, Bool.or_eq_true, Option.isSome_iff_ne_none, or_assoc]

theorem exec_symbolTime (clocked : s.clocked = true) (cycling : s.channel.state.cycling = true) (quiet : s.eventDue = false) :
    exec (.symbolTime pins) s = .next (s.advanceSymbol pins) := by
  show execSymbolTime pins s = _
  rw [execSymbolTime, clocked, cycling, quiet]
  rfl

/-! ### A keyed symbol (R133, R142, R145) -/

theorem State.sendSymbol_rest (s : State) (n : Nat) : { s.sendSymbol n with channel := s.channel, tx := s.tx } = s := by
  unfold State.sendSymbol
  split
  · rfl
  · split
    · rfl
    · split
      · rfl
      · dsimp only
        split <;> rfl

theorem State.sendSymbol_beacon (beacon : n < 224) :
    s.sendSymbol n = { s with tx := { s.tx with increment := symbolIncrement (s.tx.frame.getD n false) } } :=
  if_pos beacon

theorem State.sendSymbol_fill (after : 224 ≤ n) (before : n < 240) :
    s.sendSymbol n = { s with tx := { s.tx with increment := symbolIncrement (fill (n - 224)) } } :=
  (if_neg after.not_gt).trans (if_pos before)

/-- In O the item whose symbols hold the position is sent, On air from its start symbol on (R117, R133). -/
theorem State.sendSymbol_item (fits : s.cyclePlanFits) (planned : e ∈ s.channel.plan) (unsent : e.unsent = true)
    (begun : e.start ≤ n) (short : n < e.start + e.cost) :
    s.sendSymbol n = { (if n = e.start then s.markItem e .onAir else s) with tx := s.tx.itemSymbol e n } := by
  have start := fits.start_le planned
  have pastBeacon : ¬ n < 224 := by omega
  have pastFill : ¬ n < Config.outboundStart := by
    show ¬ n < 240
    omega
  rw [State.sendSymbol, if_neg pastBeacon, if_neg pastFill, itemAt_laidOut fits.1 planned unsent begun short]
  dsimp only
  split <;> rfl

/-- The symbol of a frame in hand, which at the start symbol is the frame assembled (R134, R142). -/
theorem Transmit.itemSymbol_frame (x : Transmit) (kind : ∀ g, e.item.kind ≠ .toneCall g) :
    x.itemSymbol e n = { x with
      frame := if n = e.start then x.assembled.getD [] else x.frame
      assembled := if n = e.start then none else x.assembled
      increment := symbolIncrement ((if n = e.start then x.assembled.getD [] else x.frame).getD (n - e.start) false) } := by
  rw [Transmit.itemSymbol, if_pos (ItemKind.isFrame_iff.2 kind)]
  split <;> rfl

/-- The present tone of a tone call: tone A for 2,400 symbols, then tone B (R145). -/
theorem Transmit.itemSymbol_tone (x : Transmit) {g : ToneGroup} {tone : ToneInHand} (kind : e.item.kind = .toneCall g)
    (started : x.tone = some tone) : x.itemSymbol e n =
      { x with increment := if n < e.start + 2400 then tone.incrementA else tone.incrementB } := by
  simp only [Transmit.itemSymbol, kind, ItemKind.isFrame, started, Bool.false_eq_true, if_false]
  rfl

/-! ### The receiver lines (R127, R152) -/

theorem State.sampleReply_before (before : n < 18000) : s.sampleReply n pins = s := if_neg before.not_ge

theorem State.sampleReply_reply (reply : 18000 ≤ n) : s.sampleReply n pins =
    { s with rx := s.rx.sampled ((n - 18000) % 60) pins, inputs := s.inputs.received ((n - 18000) % 60) pins } :=
  if_pos reply

theorem State.sampleReply_rest (s : State) (n : Nat) (pins : RxPins) :
    { s.sampleReply n pins with rx := s.rx, inputs := s.inputs } = s := by
  unfold State.sampleReply
  split <;> rfl

theorem Receiver.sampled_rejected (x : Receiver) (j : Nat) (pins : RxPins) : (x.sampled j pins).rejected = x.rejected := by
  unfold Receiver.sampled
  dsimp only
  split <;> split <;> rfl

theorem Receiver.sampled_carrier (x : Receiver) (j : Nat) (pins : RxPins) : (x.sampled j pins).carrier =
    if j = 30 then (if pins.rxc then .present else .absent) else x.carrier := by
  unfold Receiver.sampled
  dsimp only
  split
  · rfl
  · split <;> rfl

/-- The buffer after one symbol of a cell: position j of the cell is value j - 2 of the buffer. -/
theorem Receiver.sampled_buffer (x : Receiver) (j : Nat) (pins : RxPins) (i : Fin 56) : (x.sampled j pins).buffer[i] =
    if j = i.val + 2 then (if pins.rxe then .erased else if pins.rxd then .one else .zero) else x.buffer[i] := by
  have marked : (x.sampled j pins).buffer = if h : 2 ≤ j ∧ j ≤ 57 then x.buffer.set (j - 2) (receivedValue pins) (by omega)
      else x.buffer := by
    unfold Receiver.sampled
    dsimp only
    split <;> split <;> rfl
  rw [Fin.getElem_fin, marked]
  split
  · rename_i within
    rw [Vector.getElem_set]
    have place : j - 2 = i.val ↔ j = i.val + 2 := by omega
    simp only [place]
    rfl
  · rename_i outside
    rw [if_neg (by omega)]
    rfl

theorem Inputs.received_eq (x : Inputs) (j : Nat) (pins : RxPins) : x.received j pins = { x with
    rxd := if 2 ≤ j ∧ j ≤ 57 then pins.rxd else x.rxd
    rxe := if 2 ≤ j ∧ j ≤ 57 then pins.rxe else x.rxe
    rxc := if j = 30 then pins.rxc else x.rxc } := by
  unfold Inputs.received
  dsimp only
  split <;> split <;> rfl

/-! ### A symbol time of each section (R112, R133) -/

/-- The state once the symbol of a position has been sent, if a site is keyed. -/
def State.sent (s : State) (n : Nat) : State := if s.channel.keyed.isSome then s.sendSymbol n else s

theorem State.sent_keyed (keyed : s.channel.keyed ≠ none) : s.sent n = s.sendSymbol n :=
  if_pos (Option.isSome_iff_ne_none.2 keyed)

theorem State.sent_unkeyed (unkeyed : s.channel.keyed = none) : s.sent n = s := by
  rw [State.sent, unkeyed]
  rfl

theorem State.sent_rest (s : State) (n : Nat) : { s.sent n with channel := s.channel, tx := s.tx } = s := by
  unfold State.sent
  split
  · exact s.sendSymbol_rest n
  · rfl

theorem State.advanceSymbol_of_lead {lone : Bool} {j : Nat} (here : s.channel.pos = .lead lone j) :
    s.advanceSymbol pins = { s with
      channel := { s.channel with pos := if j + 1 < 240 then .lead lone (j + 1) else .cycle 0 }
      tx := if s.channel.keyed = none then s.tx else { s.tx with increment := symbolIncrement (fill j) } } := by
  by_cases unkeyed : s.channel.keyed = none
  · have off : ¬ s.channel.keyed.isSome = true := by rw [unkeyed]; exact Bool.false_ne_true
    simp only [State.advanceSymbol, here, if_pos unkeyed, if_neg off]
    rfl
  · simp only [State.advanceSymbol, here, if_neg unkeyed, if_pos (Option.isSome_iff_ne_none.2 unkeyed)]
    rfl

theorem State.advanceSymbol_of_cycle (here : s.channel.pos = .cycle n) : s.advanceSymbol pins =
    { (s.sent n).sampleReply n pins with channel := { (s.sent n).channel with pos := .cycle (n + 1) } } := by
  rw [← State.sampleReply_channel (s.sent n) n pins]
  simp only [State.advanceSymbol, here]
  rfl

theorem State.advanceSymbol_tx (here : s.channel.pos = .cycle n) : (s.advanceSymbol pins).tx = (s.sent n).tx := by
  rw [State.advanceSymbol_of_cycle here]
  exact (congrArg State.tx (State.sampleReply_rest (s.sent n) n pins) :)

theorem State.advanceSymbol_plan (here : s.channel.pos = .cycle n) :
    (s.advanceSymbol pins).channel.plan = (s.sent n).channel.plan := by
  rw [State.advanceSymbol_of_cycle here]

theorem State.advanceSymbol_before (here : s.channel.pos = .cycle n) (before : n < 18000) :
    (s.advanceSymbol pins).rx = s.rx ∧ (s.advanceSymbol pins).inputs = s.inputs := by
  rw [State.advanceSymbol_of_cycle here, State.sampleReply_before before]
  exact ⟨(congrArg State.rx (s.sent_rest n) :), (congrArg State.inputs (s.sent_rest n) :)⟩

theorem State.advanceSymbol_reply (here : s.channel.pos = .cycle n) (reply : 18000 ≤ n) :
    (s.advanceSymbol pins).rx = s.rx.sampled ((n - 18000) % 60) pins ∧
      (s.advanceSymbol pins).inputs = s.inputs.received ((n - 18000) % 60) pins := by
  have rx := (congrArg State.rx (s.sent_rest n) :)
  have inputs := (congrArg State.inputs (s.sent_rest n) :)
  rw [State.advanceSymbol_of_cycle here, State.sampleReply_reply reply, rx, inputs]
  dsimp only
  exact ⟨rfl, rfl⟩

/-! ### A sample time (R140, R141, R143, R145) -/

/-- No entry of the sine table exceeds 2,047 (R140). -/
theorem sine_range {k : Nat} (entry : k < 256) : -2047 ≤ sine k ∧ sine k ≤ 2047 := by
  have near := abs_le.1 (sine_nearest entry)
  have low := Real.neg_one_le_sin (2 * Real.pi * k / 256)
  have high := Real.sin_le_one (2 * Real.pi * k / 256)
  have above : (-2048 : ℝ) < sine k := by linarith [near.1]
  have below : (sine k : ℝ) < 2048 := by linarith [near.2]
  have above' : -2048 < sine k := by exact_mod_cast above
  have below' : sine k < 2048 := by exact_mod_cast below
  omega

/-- The sample output of a phase holds without wrapping (R141, R143). -/
theorem toNat_sampleOf (phase : BitVec 16) (level : BitVec 4) : ((sampleOf phase level).toNat : Int) =
    2048 + Int.tdiv (sine (phase.toNat / 256) * (level.toNat + 1)) 16 := by
  have entry : phase.toNat / 256 < 256 := by omega
  obtain ⟨low, high⟩ := sine_range entry
  have level' : (level.toNat : Int) + 1 ≤ 16 := by omega
  have positive : 0 < (level.toNat : Int) + 1 := by omega
  rw [sampleOf]
  generalize sine (phase.toNat / 256) = y at *
  generalize (level.toNat : Int) + 1 = l at *
  have above : -(2047 * 16) ≤ y * l := by nlinarith
  have below : y * l ≤ 2047 * 16 := by nlinarith
  generalize y * l = z at *
  have size : (Int.tdiv z 16).natAbs = z.natAbs / 16 := Int.natAbs_tdiv z 16
  rw [BitVec.toNat_ofInt]
  omega

theorem exec_sampleTime (clocked : s.clocked = true) : exec .sampleTime s = .next s.takeSample := by
  show execSampleTime s = _
  rw [execSampleTime, clocked]
  rfl

theorem Transmit.silent_iff (x : Transmit) : x.silent = true ↔ x.tone ≠ none ∧ x.increment = 0 := by
  rw [Transmit.silent, Bool.and_eq_true, Option.isSome_iff_ne_none, decide_eq_true_eq]

theorem Transmit.keyedSample_silent {x : Transmit} (silent : x.silent = true) (level : BitVec 4) :
    x.keyedSample level = { x with sample := 2048 } := if_pos silent

theorem Transmit.keyedSample_sounding {x : Transmit} (sounding : ¬ x.silent = true) (level : BitVec 4) :
    x.keyedSample level = { x with phase := x.phase + x.increment, sample := sampleOf (x.phase + x.increment) level } :=
  if_neg sounding

theorem State.takeSample_unkeyed (unkeyed : s.channel.keyed = none) :
    s.takeSample = { s with tx := { s.tx with sample := 2048, dacWord := some 2048, restoreWord := false } } := by
  rw [State.takeSample, unkeyed]
  dsimp only
  split <;> rfl

theorem State.takeSample_keyed (keyed : s.channel.keyed ≠ none) (unmarked : s.tx.restoreWord = false) :
    s.takeSample = { s with tx := { s.tx.keyedSample s.channel.level with
      dacWord := some (s.tx.keyedSample s.channel.level).sample, restoreWord := false } } := by
  simp only [State.takeSample, Option.isSome_iff_ne_none.2 keyed, unmarked, Bool.false_eq_true, if_true, if_false]

theorem State.takeSample_restored (keyed : s.channel.keyed ≠ none) (marked : s.tx.restoreWord = true) :
    s.takeSample = { s with tx := { s.tx.keyedSample s.channel.level with
      sample := 2048, dacWord := some 2048, restoreWord := false } } := by
  simp only [State.takeSample, Option.isSome_iff_ne_none.2 keyed, marked, if_true]
  rfl

/-! ### The word as it goes out (R143) -/

theorem State.dacBits_word {word : BitVec 12} (sent : s.tx.dacWord = some word) :
    s.dacBits = (List.range 12).map fun i => (word.getMsbD i, decide (i = 0)) := by
  rw [State.dacBits, sent]

theorem State.dacBits_getElem {word : BitVec 12} (sent : s.tx.dacWord = some word) {i : Nat} (bit : i < 12) :
    s.dacBits[i]? = some (word.getLsbD (11 - i), decide (i = 0)) := by
  rw [State.dacBits_word sent, List.getElem?_map, List.getElem?_range bit, Option.map_some]
  simp [BitVec.getMsbD, bit]

/-! ### The statement -/

/-- Settles O54: each section of a symbol time by its own equation, and each sample time by the state of the output. -/
theorem symbolAndSampleTimesPass : Obligations.SymbolAndSampleTimesPass := by
  unfold Obligations.SymbolAndSampleTimesPass
  refine ⟨fun s => State.eventDue_iff, fun s pins clocked cycling quiet => ?_, fun s clocked => ?_⟩
  · intro toned
    have taken := exec_symbolTime (pins := pins) clocked cycling quiet
    have tone : ∀ j, symbolIncrement (fill j) = toned (j % 2 = 0) := fun j => rfl
    refine ⟨fun lone j here => ?_, fun p here => ?_⟩
    · rw [taken, State.advanceSymbol_of_lead here]
      rfl
    have plan := State.advanceSymbol_plan (pins := pins) here
    have tx := State.advanceSymbol_tx (pins := pins) here
    obtain ⟨rest, channel⟩ := s.advanceSymbol_frame pins
    refine ⟨_, taken, State.advanceSymbol_cycle pins here, ?_, fun early => ?_, fun unkeyed => ?_, fun keyed beacon => ?_,
      fun keyed after early => ?_, fun keyed fits e planned unsent begun short => ?_, State.advanceSymbol_before here,
      fun reply => ?_, rest⟩
    · rw [channel]
    · rw [plan]
      by_cases keyed : s.channel.keyed = none
      · rw [State.sent_unkeyed keyed]
      · rw [State.sent_keyed keyed]
        by_cases beacon : p < 224
        · rw [State.sendSymbol_beacon beacon]
        · rw [State.sendSymbol_fill (Nat.le_of_not_lt beacon) early]
    · rw [tx, plan, State.sent_unkeyed unkeyed]
      exact ⟨rfl, rfl⟩
    · rw [tx, State.sent_keyed keyed, State.sendSymbol_beacon beacon]
      rfl
    · rw [tx, State.sent_keyed keyed, State.sendSymbol_fill after early]
      rfl
    · have sent := State.sendSymbol_item fits planned (PlannedItem.unsent_iff.2 unsent) begun short
      rw [plan, tx, State.sent_keyed keyed, sent]
      refine ⟨?_, fun kind => ?_, fun g tone kind started => ?_⟩
      · split <;> rfl
      · exact Transmit.itemSymbol_frame s.tx kind
      · exact Transmit.itemSymbol_tone s.tx kind started
    · intro j
      obtain ⟨rx, inputs⟩ := State.advanceSymbol_reply (pins := pins) here reply
      rw [rx, inputs]
      exact ⟨Receiver.sampled_rejected _ j pins, Receiver.sampled_carrier _ j pins, Inputs.received_eq _ j pins,
        Receiver.sampled_buffer _ j pins⟩
  · rw [exec_sampleTime clocked]
    refine ⟨fun unkeyed => congrArg _ (State.takeSample_unkeyed unkeyed), fun keyed unmarked => ⟨fun silent => ?_, fun sounding => ?_⟩,
      fun keyed marked => ?_, fun none => ?_, fun word sent => ⟨?_, fun i bit => State.dacBits_getElem sent bit⟩⟩
    · rw [State.takeSample_keyed keyed unmarked, Transmit.keyedSample_silent (s.tx.silent_iff.2 silent), ← unmarked]
    · rw [← Transmit.silent_iff] at sounding
      refine ⟨_, _, sine_nearest ?_, toNat_sampleOf (s.tx.phase + s.tx.increment) s.channel.level, ?_⟩
      · omega
      · rw [State.takeSample_keyed keyed unmarked, Transmit.keyedSample_sounding sounding, ← unmarked]
    · rw [State.takeSample_restored keyed marked]
      simp only [← Transmit.silent_iff]
      by_cases silent : s.tx.silent = true
      · rw [Transmit.keyedSample_silent silent, if_pos silent]
      · rw [Transmit.keyedSample_sounding silent, if_neg silent]
    · rw [State.dacBits, none]
    · rw [State.dacBits_word sent, List.length_map, List.length_range]

end Sys2Proof.Machine
end

section
/-! PROOF. The sample output keeps its range (R143): every command but a sample time leaves it as it is, or rests it at 2,048 as it
releases the PTT. -/

namespace Sys2Proof.Machine

open Sys2Proof

variable {s t u : State}

/-! ### What a command can do to the sample output -/

/-- The output is left as it is and no PTT is released, or it rests at mid-scale with no site keyed. -/
inductive State.outputFollows (s t : State) : Prop
  | held (sample : t.tx.sample = s.tx.sample) (asserted : t.channel.keyed = none → s.channel.keyed = none)
  | rested (released : t.channel.keyed = none) (sample : t.tx.sample = 2048)

theorem State.outputFollows_of_eq (keyed : t.channel.keyed = s.channel.keyed) (sample : t.tx.sample = s.tx.sample) :
    s.outputFollows t :=
  .held sample fun unkeyed => keyed ▸ unkeyed

theorem State.outputFollows_refl (s : State) : s.outputFollows s := State.outputFollows_of_eq rfl rfl

theorem State.airKept.outputFollows (kept : s.airKept t) : s.outputFollows t :=
  State.outputFollows_of_eq (congrArg Channel.keyed kept.channel) kept.sample

/-- What comes before without touching the output or the PTT leaves the account as it is. -/
theorem State.outputFollows.since (h : t.outputFollows u) (keyed : t.channel.keyed = s.channel.keyed)
    (sample : t.tx.sample = s.tx.sample) : s.outputFollows u := by
  cases h with
  | held sample' asserted => exact .held (sample'.trans sample) fun unkeyed => keyed ▸ asserted unkeyed
  | rested released sample' => exact .rested released sample'

/-! ### The law -/

theorem State.sampleLaw_rested (unkeyed : s.channel.keyed = none) (rest : s.tx.sample = 2048) : s.sampleLaw := by
  rw [State.sampleLaw, unkeyed]
  exact rest

/-- Twelve bits hold no more than 4,095, so that a keyed output is in range once it is not 0. -/
theorem State.sampleLaw_keyed (keyed : s.channel.keyed ≠ none) (positive : 1 ≤ s.tx.sample.toNat) : s.sampleLaw := by
  obtain ⟨site, isKeyed⟩ := Option.ne_none_iff_exists'.1 keyed
  rw [State.sampleLaw, isKeyed]
  exact ⟨positive, Nat.le_of_lt_succ s.tx.sample.isLt⟩

/-- The output at rest is within the keyed range as well, so that a site may be keyed on it. -/
theorem State.sampleLaw.positive (law : s.sampleLaw) : 1 ≤ s.tx.sample.toNat := by
  unfold State.sampleLaw at law
  split at law
  · exact law.1
  · rw [law]
    decide

theorem State.sampleLaw.unkeyed (law : s.sampleLaw) (unkeyed : s.channel.keyed = none) : s.tx.sample = 2048 := by
  rw [State.sampleLaw, unkeyed] at law
  exact law

theorem State.outputFollows.sampleLaw (follows : s.outputFollows t) (law : s.sampleLaw) : t.sampleLaw := by
  cases follows with
  | rested released sample => exact State.sampleLaw_rested released sample
  | held sample asserted =>
    by_cases unkeyed : t.channel.keyed = none
    · exact State.sampleLaw_rested unkeyed (sample.trans (law.unkeyed (asserted unkeyed)))
    · exact State.sampleLaw_keyed unkeyed (sample ▸ law.positive)

/-! ### The channel's operations -/

/-- A plan point keys a site with the output as it stands, or releases the PTT (R121, R143). -/
theorem State.outputFollows_openCycle (s : State) (lone : Bool) (pins : SitePins) :
    s.outputFollows (s.openCycle lone pins) := by
  cases keyed : (s.openCycle lone pins).channel.keyed with
  | none =>
    obtain ⟨tx, -⟩ := State.openCycle_returned keyed
    exact .rested keyed (by rw [tx])
  | some x =>
    obtain ⟨-, -, tx⟩ := State.openCycle_keyed keyed
    exact .held (by rw [tx]) fun unkeyed => by rw [keyed] at unkeyed; cases unkeyed

theorem State.outputFollows_stopChannel (s : State) (why : ChannelCause) : s.outputFollows (s.stopChannel why) := by
  obtain ⟨channel, -, tx, -⟩ := s.stopChannel_frame why
  exact .rested (by rw [channel]) (by rw [tx])

/-- The loss of the clock cuts a running cycle off, and touches nothing where none runs (R129). -/
theorem State.outputFollows_loseClock (s : State) : s.outputFollows s.loseClock := by
  cases state : s.channel.state with
  | running =>
    rw [State.loseClock_running state]
    exact .rested rfl rfl
  | stopping =>
    obtain ⟨channel, -, tx, -⟩ := s.cutOff.stopChannel_frame .clockLost
    rw [State.loseClock_stopping state]
    exact .rested (by rw [channel]) (by rw [tx])
  | stopped =>
    rw [State.loseClock_idle (.inl state)]
    exact s.outputFollows_refl
  | suspended =>
    rw [State.loseClock_idle (.inr state)]
    exact s.outputFollows_refl

theorem State.outputFollows_loseReference (s : State) : s.outputFollows s.loseReference :=
  (State.outputFollows_loseClock _).since rfl rfl

theorem State.outputFollows_resumeChannel (s : State) (pins : SitePins) : s.outputFollows (s.resumeChannel pins) := by
  unfold State.resumeChannel
  split
  · exact (State.outputFollows_openCycle _ true pins).since rfl rfl
  · exact s.outputFollows_refl

theorem State.outputFollows_complete (s : State) (e : PlannedItem) : s.outputFollows (s.complete e) := by
  have tx : (s.complete e).tx = (s.markItem e .sent).tx.ended e :=
    (congrArg State.tx (State.matchCompletion_frame { s.markItem e .sent with tx := (s.markItem e .sent).tx.ended e }
      e.item).1 :)
  refine State.outputFollows_of_eq ?_ ?_
  · rw [s.complete_channel]
    rfl
  · rw [tx]
    rfl

theorem State.outputFollows_endCell (s : State) (k : MemberIdx) : s.outputFollows (s.endCell k) := by
  refine State.outputFollows_of_eq ?_ ?_
  · rw [s.endCell_channel]
  · exact (congrArg (fun u : State => u.tx.sample) (endCell_rest (s := s) (k := k)) :)

/-! ### A symbol time (R112) -/

theorem Transmit.itemSymbol_sample (x : Transmit) (e : PlannedItem) (n : Nat) : (x.itemSymbol e n).sample = x.sample := by
  unfold Transmit.itemSymbol
  dsimp only
  split
  · split <;> rfl
  · split <;> rfl

theorem State.sendSymbol_sample (s : State) (n : Nat) : (s.sendSymbol n).tx.sample = s.tx.sample := by
  unfold State.sendSymbol
  split
  · rfl
  · split
    · rfl
    · split
      · rfl
      · dsimp only
        rw [Transmit.itemSymbol_sample]
        split <;> rfl

/-- A symbol time sets increments alone; the output waits for its sample times (R141, R142). -/
theorem State.advanceSymbol_sample (s : State) (pins : RxPins) : (s.advanceSymbol pins).tx.sample = s.tx.sample := by
  cases here : s.channel.pos with
  | absent => simp only [State.advanceSymbol, here]
  | lead lone j =>
    rw [State.advanceSymbol_of_lead here]
    dsimp only
    split <;> rfl
  | cycle n =>
    rw [State.advanceSymbol_tx here, State.sent]
    split
    · exact s.sendSymbol_sample n
    · rfl

theorem State.outputFollows_advanceSymbol (s : State) (pins : RxPins) : s.outputFollows (s.advanceSymbol pins) := by
  refine State.outputFollows_of_eq ?_ (s.advanceSymbol_sample pins)
  rw [(s.advanceSymbol_frame pins).2]

/-! ### The channel's requests -/

theorem State.outputFollows_takeRequest {perm : Permission} {body : State → Taken} (h : s.outputFollows (body s).1) :
    s.outputFollows (s.takeRequest p perm body) := by
  refine State.takeRequest_cases s.outputFollows_refl (fun _ => State.outputFollows_of_eq rfl rfl) ?_
  cases h with
  | held sample asserted => exact .held sample asserted
  | rested released sample => exact .rested released sample

theorem setChannelParametersBody_outputFollows (station limit threshold mode level : Byte) :
    s.outputFollows (setChannelParametersBody station limit threshold mode level s).1 := by
  unfold setChannelParametersBody
  split
  · exact s.outputFollows_refl
  · split
    · exact s.outputFollows_refl
    · split <;> exact State.outputFollows_of_eq rfl rfl

theorem startChannelBody_outputFollows (pins : SitePins) : s.outputFollows (startChannelBody pins s).1 := by
  unfold startChannelBody
  split
  · exact s.outputFollows_refl
  · split
    · exact (State.outputFollows_openCycle _ true pins).since rfl rfl
    · exact State.outputFollows_of_eq rfl rfl

theorem stopChannelBody_outputFollows : s.outputFollows (stopChannelBody s).1 := by
  unfold stopChannelBody done
  split
  · exact State.outputFollows_of_eq rfl rfl
  · dsimp only
    exact s.outputFollows_stopChannel .stop
  · exact s.outputFollows_refl

theorem selectSiteBody_outputFollows (site : Byte) : s.outputFollows (selectSiteBody site s).1 := by
  unfold selectSiteBody
  split
  · exact s.outputFollows_refl
  · unfold State.select
    split <;> exact State.outputFollows_of_eq rfl rfl

/-! ### Every command -/

theorem exec_outputFollows (i : Instr) (other : i ≠ .sampleTime) (h : exec i s = .next t) : s.outputFollows t := by
  cases still : movesAir i with
  | false => exact (exec_airKept i still h).outputFollows
  | true =>
    cases i with
    | setChannelParameters => cases h; exact State.outputFollows_takeRequest (setChannelParametersBody_outputFollows _ _ _ _ _)
    | startChannel => cases h; exact State.outputFollows_takeRequest (startChannelBody_outputFollows _)
    | stopChannel => cases h; exact State.outputFollows_takeRequest stopChannelBody_outputFollows
    | selectSite => cases h; exact State.outputFollows_takeRequest (selectSiteBody_outputFollows _)
    | planPoint pins =>
      cases h
      split
      · split
        · exact s.outputFollows_openCycle false pins
        · exact s.outputFollows_stopChannel .endOfCycle
      · exact s.outputFollows_refl
    | completion =>
      cases h
      split
      · split
        · exact s.outputFollows_complete _
        · exact s.outputFollows_refl
      · exact s.outputFollows_refl
    | keyedPeriodEnd =>
      cases h
      split
      · exact .rested rfl rfl
      · exact s.outputFollows_refl
    | readyLoss =>
      cases h
      split
      · exact .rested rfl rfl
      · exact s.outputFollows_refl
    | cellEnd =>
      cases h
      split
      · split
        · split
          · exact s.outputFollows_refl
          · exact s.outputFollows_endCell _
        · exact s.outputFollows_refl
      · exact s.outputFollows_refl
    | referenceLost =>
      cases h
      split
      · exact s.outputFollows_loseReference
      · exact s.outputFollows_refl
    | restoreGap =>
      cases h
      split
      · exact s.outputFollows_refl
      · split
        · exact s.outputFollows_loseReference
        · split <;> exact State.outputFollows_of_eq rfl rfl
    | restored pins =>
      cases h
      split
      · exact (State.outputFollows_resumeChannel _ pins).since rfl rfl
      · exact s.outputFollows_refl
    | reset => cases h; exact .rested rfl rfl
    | resetEnd =>
      cases h
      split
      · exact .rested rfl rfl
      · exact s.outputFollows_refl
    | symbolTime pins =>
      cases h
      split
      · exact s.outputFollows_advanceSymbol pins
      · exact s.outputFollows_refl
    | sampleTime => exact absurd rfl other
    | _ => cases still

/-! ### A sample time (R141, R143) -/

/-- No entry of the table, at no level, takes the output as far down as 0 (R140, R141). -/
theorem sampleOf_positive (phase : BitVec 16) (level : BitVec 4) : 1 ≤ (sampleOf phase level).toNat := by
  have value := toNat_sampleOf phase level
  obtain ⟨low, high⟩ := sine_range (k := phase.toNat / 256) (by omega)
  have level' : (level.toNat : Int) + 1 ≤ 16 := by omega
  have above : -(2047 * 16) ≤ sine (phase.toNat / 256) * (level.toNat + 1) := by nlinarith
  have below : sine (phase.toNat / 256) * (level.toNat + 1) ≤ 2047 * 16 := by nlinarith
  generalize sine (phase.toNat / 256) * (level.toNat + 1) = z at value above below
  have size : (Int.tdiv z 16).natAbs = z.natAbs / 16 := Int.natAbs_tdiv z 16
  omega

theorem Transmit.keyedSample_positive (x : Transmit) (level : BitVec 4) : 1 ≤ (x.keyedSample level).sample.toNat := by
  by_cases silent : x.silent = true
  · rw [Transmit.keyedSample_silent silent]
    exact Nat.one_le_two_pow (n := 11)
  · rw [Transmit.keyedSample_sounding silent]
    exact sampleOf_positive _ level

theorem State.takeSample_sampleLaw (s : State) : s.takeSample.sampleLaw := by
  by_cases keyed : s.channel.keyed = none
  · rw [State.takeSample_unkeyed keyed]
    exact State.sampleLaw_rested keyed rfl
  · cases marked : s.tx.restoreWord with
    | true =>
      rw [State.takeSample_restored keyed marked]
      exact State.sampleLaw_keyed keyed (Nat.one_le_two_pow (n := 11))
    | false =>
      rw [State.takeSample_keyed keyed marked]
      exact State.sampleLaw_keyed keyed (s.tx.keyedSample_positive s.channel.level)

theorem exec_sampleLaw (i : Instr) (law : s.sampleLaw) (h : exec i s = .next t) : t.sampleLaw := by
  by_cases sample : i = .sampleTime
  · subst sample
    cases h
    split
    · exact s.takeSample_sampleLaw
    · exact law
  · exact (exec_outputFollows i sample h).sampleLaw law

/-- Settles O55: a sample time puts the output in its range, and every other command leaves it there or rests it. -/
theorem sampleOutputStaysInRange : Obligations.SampleOutputStaysInRange := by
  intro s t law h
  unfold step at h
  split at h
  · cases h
    exact s.airKept_clockPeriod.outputFollows.sampleLaw law
  · rename_i i rest _
    exact exec_sampleLaw (s := { s with pending := rest }) i law h

end Sys2Proof.Machine
end

section
/-! PROOF. The encoder bit by bit: the check registers, the coded pairs and the puncture patterns (R136 to R138, R158). -/

namespace Sys2Proof.Machine

open Sys2Proof

/-! ### The bits of a field (R187) -/

theorem bitsOf_eq {w : Nat} (x : BitVec w) : bitsOf x = (List.range w).map fun i => x.getLsbD (w - 1 - i) := by
  refine List.map_congr_left fun i bit => ?_
  rw [BitVec.getMsbD, decide_eq_true (List.mem_range.1 bit), Bool.true_and]

/-! ### Check registers (R136, R158) -/

theorem getLsbD_shiftLeft_one {w i : Nat} (place : i < w) (reg : BitVec w) :
    (reg <<< 1).getLsbD i = if i = 0 then false else reg.getLsbD (i - 1) := by
  cases i with
  | zero => simp
  | succ i => rw [BitVec.getLsbD_shiftLeft, decide_eq_true place]; simp

/-- A register shifted one place up, with the feedback at the places of a generator's terms. -/
theorem getLsbD_feedback {w i : Nat} (place : i < w) (reg generator : BitVec w) (fed : Bool) :
    (if fed then (reg <<< 1) ^^^ generator else reg <<< 1).getLsbD i =
      ((if i = 0 then false else reg.getLsbD (i - 1)) ^^ (if generator.getLsbD i then fed else false)) := by
  cases fed <;> simp [getLsbD_shiftLeft_one place]

theorem crc16_append (data : List Bool) (b : Bool) : crc16 (data ++ [b]) = crc16Step (crc16 data) b :=
  List.foldl_append

theorem crc4_append (data : List Bool) (b : Bool) : crc4 (data ++ [b]) = crc4Step (crc4 data) b :=
  List.foldl_append

/-- The terms below x^16 of x^16 + x^12 + x^5 + 1 (R136). -/
theorem crc16_generator : ∀ i < 16, (0x1021#16).getLsbD i = true ↔ i = 0 ∨ i = 5 ∨ i = 12 := by decide

/-- The terms below x^4 of x^4 + x + 1 (R158). -/
theorem crc4_generator : ∀ i < 4, (0x3#4).getLsbD i = true ↔ i = 0 ∨ i = 1 := by decide

theorem getLsbD_crc16Step (reg : BitVec 16) (b : Bool) {i : Nat} (place : i < 16) : (crc16Step reg b).getLsbD i =
    ((if i = 0 then false else reg.getLsbD (i - 1)) ^^
      (if i = 0 ∨ i = 5 ∨ i = 12 then b ^^ reg.getLsbD 15 else false)) := by
  rw [crc16Step, getLsbD_feedback place, BitVec.msb_eq_getLsbD_last]
  simp only [crc16_generator i place]

theorem getLsbD_crc4Step (reg : BitVec 4) (b : Bool) {i : Nat} (place : i < 4) : (crc4Step reg b).getLsbD i =
    ((if i = 0 then false else reg.getLsbD (i - 1)) ^^ (if i = 0 ∨ i = 1 then b ^^ reg.getLsbD 3 else false)) := by
  rw [crc4Step, getLsbD_feedback place, BitVec.msb_eq_getLsbD_last]
  simp only [crc4_generator i place]

/-! ### The convolutional code (R137) -/

theorem getLsbD_shiftIn (reg : BitVec 4) (b : Bool) {i : Nat} (place : i < 4) :
    (shiftIn reg b).getLsbD i = if i = 0 then b else reg.getLsbD (i - 1) := by
  have entered : (if b then 1#4 else 0#4).getLsbD i = (decide (i = 0) && b) := by
    cases b <;> simp
  rw [shiftIn, BitVec.getLsbD_or, getLsbD_shiftLeft_one place, entered]
  split <;> simp_all

/-- The input bit `back` places before bit `n`; before the first bit stands what the register holds. -/
def bitBefore (reg : BitVec 4) (input : List Bool) (n back : Nat) : Bool :=
  if back ≤ n then input.getD (n - back) false else reg.getLsbD (back - n - 1)

/-- A bit shifted in stands one place further back at the next bit. -/
theorem bitBefore_shiftIn (reg : BitVec 4) (b : Bool) (rest : List Bool) (n : Nat) {back : Nat} (near : back ≤ 4) :
    bitBefore (shiftIn reg b) rest n back = bitBefore reg (b :: rest) (n + 1) back := by
  unfold bitBefore
  rcases Nat.lt_trichotomy back (n + 1) with before | here | beyond
  · rw [if_pos (by omega), if_pos (by omega), show n + 1 - back = n - back + 1 by omega, List.getD_cons_succ]
  · subst here
    rw [if_neg (by omega), if_pos le_rfl, Nat.sub_self, List.getD_cons_zero, getLsbD_shiftIn _ _ (by omega)]
    exact if_pos (by omega)
  · rw [if_neg (by omega), if_neg (by omega), getLsbD_shiftIn _ _ (by omega), if_neg (by omega)]
    rfl

/-- The two symbols of each bit, from any register (R137). -/
theorem codedPairs_getElem (reg : BitVec 4) (input : List Bool) {n : Nat} (within : n < input.length) :
    let bit := bitBefore reg input n
    (codedPairs reg input)[n]? = some (bit 0 ^^ bit 3 ^^ bit 4, bit 0 ^^ bit 1 ^^ bit 2 ^^ bit 4) := by
  dsimp only
  induction input generalizing reg n with
  | nil => cases within
  | cons b rest ih =>
    cases n with
    | zero => rfl
    | succ n =>
      rw [codedPairs, List.getElem?_cons_succ, ih (shiftIn reg b) (Nat.lt_of_succ_lt_succ within)]
      simp only [bitBefore_shiftIn reg b rest n, Nat.reduceLeDiff]

/-- From a cleared register the bits before the first are zeros (R137). -/
theorem bitBefore_cleared (input : List Bool) (n back : Nat) :
    bitBefore 0 input n back = if back ≤ n then input.getD (n - back) false else false := by
  simp [bitBefore]

/-! ### Puncturing (R138) -/

theorem keptAt_twoThirds (position : Nat) (pair : Bool × Bool) :
    keptAt .twoThirds position pair = if position = 0 then [pair.1, pair.2] else [pair.1] := by
  cases position <;> rfl

theorem keptAt_threeQuarters (position : Nat) (pair : Bool × Bool) : keptAt .threeQuarters position pair =
    if position = 0 then [pair.1, pair.2] else if position = 1 then [pair.2] else [pair.1] := by
  rcases position with _ | _ | _ <;> rfl

/-- Each pair is punctured at its place modulo the period of the pattern (R138). -/
theorem punctured_eq_flatMap (rate : CodeRate) (k : Nat) (pairs : List (Bool × Bool)) :
    punctured rate (k % rate.period) pairs = (pairs.zipIdx k).flatMap fun x => keptAt rate (x.2 % rate.period) x.1 := by
  induction pairs generalizing k with
  | nil => rfl
  | cons pair rest ih => rw [punctured, Nat.mod_add_mod, ih, List.zipIdx_cons, List.flatMap_cons]

/-! ### The statement -/

/-- Settles O53: the registers bit by bit, the encoder's input, the pairs by the bits before them, and the patterns. -/
theorem encoderFollowsItsFormulas : Obligations.EncoderFollowsItsFormulas := by
  refine ⟨⟨rfl, fun data b i place => ?_⟩, ⟨rfl, fun data b i place => ?_⟩, fun w x => bitsOf_eq x, fun n => rfl,
    fun data rate => ?_, fun input n within => ?_, length_codedPairs 0, fun pairs rate => ?_⟩
  · rw [crc16_append]
    exact getLsbD_crc16Step _ b place
  · rw [crc4_append]
    exact getLsbD_crc4Step _ b place
  · rw [codedSymbols, encoderInput, bitsOf_eq]
    rfl
  · rw [codedPairs_getElem 0 input within]
    simp only [bitBefore_cleared]
  · have patterns := punctured_eq_flatMap rate 0 pairs
    rw [Nat.zero_mod] at patterns
    rw [patterns]
    cases rate with
    | half => rfl
    | twoThirds => simp only [keptAt_twoThirds, CodeRate.period]
    | threeQuarters => simp only [keptAt_threeQuarters, CodeRate.period]

end Sys2Proof.Machine
end

section
/-! PROOF. The tone table writes and the increments of the stored frequencies (R146 to R148). -/

namespace Sys2Proof.Machine

open Sys2Proof

variable {s : State} {p : Port}

/-! ### Frequencies and increments (R146, R147) -/

/-- The stored frequency by the range of the one written (R147). -/
theorem clampFrequency_eq {f stored : Half}
    (written : f = 0 ∧ stored = 0 ∨ 1 ≤ f.toNat ∧ f.toNat ≤ 2999 ∧ stored = 3000 ∨
      3000 ≤ f.toNat ∧ f.toNat ≤ 30000 ∧ stored = f ∨ 30001 ≤ f.toNat ∧ stored = 30000) : clampFrequency f = stored := by
  unfold clampFrequency
  rcases written with ⟨rfl, rfl⟩ | ⟨low, high, rfl⟩ | ⟨low, high, rfl⟩ | ⟨low, rfl⟩
  · rfl
  · rw [if_neg (by bv_omega), if_pos (by bv_omega)]
  · rw [if_neg (by bv_omega), if_neg (by bv_omega), if_neg (by bv_omega)]
  · rw [if_neg (by bv_omega), if_neg (by bv_omega), if_pos (by bv_omega)]

/-- The increment of a frequency up to 30,000 fits its 16 bits (R146). -/
theorem toNat_toneIncrement {f : Half} (high : f.toNat ≤ 30000) :
    (toneIncrement f).toNat = (f.toNat * 65536 + 48000) / 96000 := by
  rw [toneIncrement, BitVec.toNat_ofNat]
  exact Nat.mod_eq_of_lt (by omega)

/-! ### The writes (R147, R148) -/

theorem writeToneFrequencyBody_index {index : Byte} (out : 32 ≤ index.toNat) (f : Half) :
    writeToneFrequencyBody index f s = refuse s .range := by
  rw [writeToneFrequencyBody, readIndex_none out]

theorem writeToneFrequencyBody_entry (i : ToneIdx) (f : Half) : writeToneFrequencyBody (byteOf i) f s =
    done { s with tx := { s.tx with frequencies := s.tx.frequencies.set i (clampFrequency f) } } [] := by
  rw [writeToneFrequencyBody, readIndex_tone]

theorem writeTonePairBody_index {g a b : Byte} (out : 16 ≤ g.toNat ∨ 32 ≤ a.toNat ∨ 32 ≤ b.toNat) :
    writeTonePairBody g a b s = refuse s .range := by
  unfold writeTonePairBody
  split
  · rename_i hg ha hb
    rcases out with out | out | out
    · rw [readIndex_none out] at hg; cases hg
    · rw [readIndex_none out] at ha; cases ha
    · rw [readIndex_none out] at hb; cases hb
  · rfl

theorem writeTonePairBody_entry (g : ToneGroup) (a b : ToneIdx) : writeTonePairBody (byteOf g) (byteOf a) (byteOf b) s =
    done { s with tx := { s.tx with pairs := s.tx.pairs.set g ⟨a, b⟩ } } [] := by
  have group : readIndex 16 (byteOf g) = some g := readIndex_byteOf (by decide) g
  rw [writeTonePairBody, group, readIndex_tone, readIndex_tone]

/-- Settles O21: the class, the indexes, the one entry written, and an increment by its bounds as a quotient. -/
theorem toneTableWritesStore : Obligations.ToneTableWritesStore := by
  refine ⟨fun s p f h => ⟨fun dispatch i g a b => ⟨?_, ?_⟩, fun station => ⟨fun i out => ?_, fun i stored written => ?_,
    fun g a b out => ?_, fun g a b => ?_⟩⟩, rfl, fun f low high => ?_⟩
  · exact congrArg Host.Outcome.next (State.takeRequest_dispatch h dispatch)
  · exact congrArg Host.Outcome.next (State.takeRequest_dispatch h dispatch)
  · exact congrArg Host.Outcome.next (State.takeRequest_station_refused h station (writeToneFrequencyBody_index out f))
  · rw [← clampFrequency_eq written]
    refine congrArg Host.Outcome.next ((State.takeRequest_station h station).trans ?_)
    rw [writeToneFrequencyBody_entry]
    rfl
  · exact congrArg Host.Outcome.next (State.takeRequest_station_refused h station (writeTonePairBody_index out))
  · refine congrArg Host.Outcome.next ((State.takeRequest_station h station).trans ?_)
    rw [writeTonePairBody_entry]
    rfl
  · rw [toNat_toneIncrement high]
    omega

end Sys2Proof.Machine
end

section
/-! PROOF. The reply code: its symbols bit by bit, and the distance between the codewords of two words (R155). -/

namespace Sys2Proof.Machine

open Sys2Proof

/-! ### The bits of a word -/

/-- A bit at the front of a word is sent first. -/
theorem bitsOf_cons {n : Nat} (b : Bool) (w : BitVec n) : bitsOf (w.cons b) = b :: bitsOf w := by
  rw [bitsOf_eq, bitsOf_eq, List.range_succ_eq_map, List.map_cons, List.map_map]
  refine congrArg₂ _ ?_ (List.map_congr_left fun i bit => ?_)
  · rw [BitVec.getLsbD_cons, if_pos (by omega)]
  · have later := List.mem_range.1 bit
    rw [Function.comp_apply, BitVec.getLsbD_cons, if_neg (by omega)]
    exact congrArg _ (by omega)

theorem bitsOf_injective {n : Nat} : Function.Injective (bitsOf (w := n)) := fun _ _ same =>
  BitVec.eq_of_getMsbD_eq fun i within => List.map_inj_left.1 same i (List.mem_range.2 within)

theorem getD_bitsOf_append_zeros {n : Nat} (w : BitVec n) (k i : Nat) :
    (bitsOf w ++ zeros k).getD i false = if i < n then w.getMsbD i else false := by
  rw [List.getD_eq_getElem?_getD]
  split
  · rename_i within
    rw [List.getElem?_append_left (by simpa using within), bitsOf]
    simp [within]
  · rename_i beyond
    rw [List.getElem?_append_right (by simpa using beyond), zeros, List.getElem?_replicate]
    split <;> rfl

/-! ### The symbols of a bit sequence -/

/-- The symbols of a bit sequence sent from a register value, all kept (R155). -/
def symbolsFrom (reg : BitVec 4) (bits : List Bool) : List Bool := punctured .half 0 (codedPairs reg bits)

theorem codeword_eq_symbolsFrom (w : BitVec 24) : codeword w = symbolsFrom 0 (bitsOf w ++ zeros 4) := rfl

@[simp] theorem symbolsFrom_nil (reg : BitVec 4) : symbolsFrom reg [] = [] := rfl

@[simp] theorem symbolsFrom_cons (reg : BitVec 4) (b : Bool) (rest : List Bool) : symbolsFrom reg (b :: rest) =
    (codedPair reg b).1 :: (codedPair reg b).2 :: symbolsFrom (shiftIn reg b) rest := rfl

@[simp] theorem length_symbolsFrom (reg : BitVec 4) (bits : List Bool) : (symbolsFrom reg bits).length = 2 * bits.length := by
  rw [symbolsFrom, length_punctured_half, length_codedPairs]

@[simp] theorem length_codeword (w : BitVec 24) : (codeword w).length = 56 := by
  simp [codeword_eq_symbolsFrom]

/-- The symbols stand in pairs, the C0 and the C1 of each bit. -/
theorem symbolsFrom_getElem (reg : BitVec 4) (bits : List Bool) (n : Nat) :
    (symbolsFrom reg bits)[2 * n]? = ((codedPairs reg bits)[n]?).map Prod.fst ∧
      (symbolsFrom reg bits)[2 * n + 1]? = ((codedPairs reg bits)[n]?).map Prod.snd := by
  induction bits generalizing reg n with
  | nil => exact ⟨rfl, rfl⟩
  | cons b rest ih =>
    cases n with
    | zero => exact ⟨rfl, rfl⟩
    | succ n => exact ih (shiftIn reg b) n

/-! ### The encoder is linear -/

theorem shiftIn_xor (r r' : BitVec 4) (b b' : Bool) : shiftIn (r ^^^ r') (b ^^ b') = shiftIn r b ^^^ shiftIn r' b' := by
  refine BitVec.eq_of_getLsbD_eq fun i place => ?_
  rw [BitVec.getLsbD_xor, getLsbD_shiftIn _ _ place, getLsbD_shiftIn _ _ place, getLsbD_shiftIn _ _ place]
  split
  · rfl
  · exact BitVec.getLsbD_xor

theorem codedPair_xor (r r' : BitVec 4) (b b' : Bool) : codedPair (r ^^^ r') (b ^^ b') =
    ((codedPair r b).1 ^^ (codedPair r' b').1, (codedPair r b).2 ^^ (codedPair r' b').2) := by
  simp only [codedPair, BitVec.getLsbD_xor, Bool.xor_assoc, Bool.xor_left_comm]

/-! ### The places in which two symbol sequences differ -/

/-- The number of places in which two symbol sequences differ (R155). -/
def differing (x y : List Bool) : Nat := (x.zip y).countP fun place => place.1 ≠ place.2

/-- The ones of a pair of symbols. -/
def pairWeight (pair : Bool × Bool) : Nat := pair.1.toNat + pair.2.toNat

theorem differing_cons (a b : Bool) (x y : List Bool) : differing (a :: x) (b :: y) = (a ^^ b).toNat + differing x y := by
  cases a <;> cases b <;> simp [differing, Nat.add_comm]

/-- By linearity, two sent pairs differ in the ones of the pair of their difference. -/
theorem differing_symbolsFrom_cons (r r' : BitVec 4) (b b' : Bool) (x y : List Bool) :
    differing (symbolsFrom r (b :: x)) (symbolsFrom r' (b' :: y)) =
      pairWeight (codedPair (r ^^^ r') (b ^^ b')) + differing (symbolsFrom (shiftIn r b) x) (symbolsFrom (shiftIn r' b') y) := by
  rw [symbolsFrom_cons, symbolsFrom_cons, differing_cons, differing_cons, codedPair_xor, pairWeight, Nat.add_assoc]

/-- A bound from below, by register value, on the ones that the encoder sends on its way back to a cleared register. -/
def weightToClear (reg : BitVec 4) : Nat := [0, 5, 4, 4, 3, 4, 4, 4, 2, 5, 4, 4, 3, 4, 3, 4].getD reg.toNat 0

/-- No bit lowers the weight to clear by more than the ones sent with it. -/
theorem weightToClear_step : ∀ (reg : BitVec 4) (b : Bool),
    weightToClear reg ≤ pairWeight (codedPair reg b) + weightToClear (shiftIn reg b) := by decide

/-- Two encoders whose registers differ send symbols that differ in the weight to clear of the difference, less what is left. -/
theorem weightToClear_le_differing (r r' : BitVec 4) {x y : List Bool} (same : x.length = y.length) : weightToClear (r ^^^ r') ≤
    differing (symbolsFrom r x) (symbolsFrom r' y) + weightToClear (x.foldl shiftIn r ^^^ y.foldl shiftIn r') := by
  induction x generalizing r r' y with
  | nil =>
    cases List.length_eq_zero_iff.1 same.symm
    exact Nat.le_add_left _ _
  | cons b x ih =>
    obtain ⟨b', y, rfl⟩ := List.exists_cons_of_length_eq_add_one same.symm
    have now := weightToClear_step (r ^^^ r') (b ^^ b')
    have later := ih (shiftIn r b) (shiftIn r' b') (Nat.succ.inj same)
    rw [shiftIn_xor] at now
    rw [differing_symbolsFrom_cons, List.foldl_cons, List.foldl_cons]
    omega

/-- The four tail zeros clear the register. -/
theorem foldl_shiftIn_tail (reg : BitVec 4) (bits : List Bool) : (bits ++ zeros 4).foldl shiftIn reg = 0 := by
  have tail : ∀ reg : BitVec 4, (zeros 4).foldl shiftIn reg = 0 := by decide
  rw [List.foldl_append, tail]

/-- Different bits differ in seven symbols: two at the first bit that differs, five on the way back to a cleared difference. -/
theorem seven_le_differing (reg : BitVec 4) {x y : List Bool} (same : x.length = y.length) (differ : x ≠ y) :
    7 ≤ differing (symbolsFrom reg (x ++ zeros 4)) (symbolsFrom reg (y ++ zeros 4)) := by
  induction x generalizing reg y with
  | nil => exact absurd (List.length_eq_zero_iff.1 same.symm).symm differ
  | cons b x ih =>
    obtain ⟨b', y, rfl⟩ := List.exists_cons_of_length_eq_add_one same.symm
    have rest : x.length = y.length := Nat.succ.inj same
    rw [List.cons_append, List.cons_append, differing_symbolsFrom_cons, BitVec.xor_self]
    by_cases equal : b = b'
    · subst equal
      exact Nat.le_add_left_of_le (ih (shiftIn reg b) rest fun h => differ (h ▸ rfl))
    · have first : (b ^^ b') = true := by simpa using equal
      have later := weightToClear_le_differing (shiftIn reg b) (shiftIn reg b') (x := x ++ zeros 4) (y := y ++ zeros 4)
        (by simp [rest])
      rw [foldl_shiftIn_tail, foldl_shiftIn_tail, ← shiftIn_xor, BitVec.xor_self, BitVec.xor_self, first] at later
      rw [first]
      exact Nat.add_le_add (show 2 ≤ pairWeight (codedPair 0 true) by decide) later

/-- Settles O57: the pairs by the encoder's formulas, and two words by the first bit in which they differ. -/
theorem codewordsDifferInSevenPlaces : Obligations.CodewordsDifferInSevenPlaces := by
  intro w
  refine ⟨length_codeword w, fun n within => ?_, fun v differ => ?_⟩
  · have pair := codedPairs_getElem 0 (bitsOf w ++ zeros 4) (n := n) (by simpa using within)
    have bit : bitBefore 0 (bitsOf w ++ zeros 4) n =
        fun back => if back ≤ n ∧ n - back < 24 then w.getMsbD (n - back) else false := by
      funext back
      rw [bitBefore_cleared, getD_bitsOf_append_zeros, ite_and]
    rw [bit] at pair
    obtain ⟨c0, c1⟩ := symbolsFrom_getElem 0 (bitsOf w ++ zeros 4) n
    rw [pair] at c0 c1
    exact ⟨c0, c1⟩
  · exact seven_le_differing 0 (by simp) (bitsOf_injective.ne differ)

end Sys2Proof.Machine
end

section
/-! PROOF. The decoded word of a cell is the nearest, and of several nearest the smallest (R156). -/

namespace Sys2Proof.Machine

open Sys2Proof

/-! ### The distance of received values (R156) -/

@[simp] theorem distance_cons (v : RxValue) (symbol : Bool) (received : List RxValue) (code : List Bool) :
    distance (v :: received) (symbol :: code) = mismatch v symbol + distance received code := by
  rw [distance, List.zipWith_cons_cons, List.sum_cons, distance]

/-- A place counts when its value was judged and differs from the symbol. -/
theorem mismatch_eq (v : RxValue) (symbol : Bool) :
    mismatch v symbol = if (v = .zero && symbol = true) || (v = .one && symbol = false) then 1 else 0 := by
  cases v <;> cases symbol <;> rfl

theorem distance_eq_countP (received : List RxValue) (code : List Bool) (same : received.length = code.length) :
    distance received code = (List.range code.length).countP fun i =>
      (received.getD i .erased = .zero && code.getD i false = true) ||
        (received.getD i .erased = .one && code.getD i false = false) := by
  induction code generalizing received with
  | nil =>
    cases List.length_eq_zero_iff.1 same
    rfl
  | cons symbol code ih =>
    obtain ⟨v, received, rfl⟩ := List.exists_cons_of_length_eq_add_one same
    rw [distance_cons, ih received (Nat.succ.inj same), mismatch_eq, List.length_cons, List.range_succ_eq_map, List.countP_cons,
      List.countP_map, Nat.add_comm]
    rfl

theorem distance_le_length (received : List RxValue) (code : List Bool) (same : received.length = code.length) :
    distance received code ≤ code.length := by
  rw [distance_eq_countP received code same]
  exact List.countP_le_length.trans_eq List.length_range

/-! ### Received values in pairs (R155) -/

/-- The received values of a list of pairs, in order. -/
def valuesOf (pairs : List RxPair) : List RxValue := pairs.flatMap fun v => [v.1, v.2]

@[simp] theorem valuesOf_cons (v : RxPair) (pairs : List RxPair) : valuesOf (v :: pairs) = v.1 :: v.2 :: valuesOf pairs := rfl

/-- An even number of values is paired without loss. -/
theorem pairsOf_even (n : Nat) (received : List RxValue) (even : received.length = 2 * n) :
    (pairsOf received).length = n ∧ valuesOf (pairsOf received) = received := by
  induction n generalizing received with
  | zero =>
    cases List.length_eq_zero_iff.1 even
    exact ⟨rfl, rfl⟩
  | succ n ih =>
    obtain ⟨x, rest, rfl⟩ := List.exists_cons_of_length_eq_add_one even
    obtain ⟨y, rest, rfl⟩ := List.exists_cons_of_length_eq_add_one (Nat.succ.inj even)
    obtain ⟨half, whole⟩ := ih rest (by simpa [Nat.mul_add] using even)
    exact ⟨congrArg (· + 1) half, congrArg (x :: y :: ·) whole⟩

/-- The distance bit by bit: that of the first pair, and that of the rest from the register with the bit in it. -/
theorem distance_symbolsFrom_cons (v : RxPair) (pairs : List RxPair) (reg : BitVec 4) (b : Bool) (bits : List Bool) :
    distance (valuesOf (v :: pairs)) (symbolsFrom reg (b :: bits)) =
      pairDistance v reg b + distance (valuesOf pairs) (symbolsFrom (shiftIn reg b) bits) := by
  rw [valuesOf_cons, symbolsFrom_cons, distance_cons, distance_cons, pairDistance, Nat.add_assoc]

theorem tailDistance_eq (tail : List RxPair) (reg : BitVec 4) :
    tailDistance tail reg = distance (valuesOf tail) (symbolsFrom reg (zeros tail.length)) := by
  induction tail generalizing reg with
  | nil => rfl
  | cons v rest ih =>
    rw [tailDistance, ih]
    exact (distance_symbolsFrom_cons v rest reg false (zeros rest.length)).symm

/-! ### Least words -/

/-- A distance and a value are those of the word of least cost and, among those, of least value (R156). -/
def LeastWord {n : Nat} (cost : BitVec n → Nat) (best : Nat × Nat) : Prop :=
  (∃ w, best = (cost w, w.toNat)) ∧ ∀ w, best.1 ≤ cost w ∧ (cost w = best.1 → best.2 ≤ w.toNat)

/-- A cost that all words have in common leaves the least word as it is. -/
theorem LeastWord.add {n : Nat} {cost : BitVec n → Nat} {best : Nat × Nat} (least : LeastWord cost best) (common : Nat) :
    LeastWord (fun w => common + cost w) (common + best.1, best.2) := by
  obtain ⟨⟨w, rfl⟩, below⟩ := least
  exact ⟨⟨w, rfl⟩, fun w' => ⟨Nat.add_le_add_left (below w').1 _, fun equal => (below w').2 (Nat.add_left_cancel equal)⟩⟩

theorem toNat_cons_true {n : Nat} (w : BitVec n) : (w.cons true).toNat = 2 ^ n + w.toNat := by
  rw [BitVec.toNat_cons', Nat.shiftLeft_eq, Bool.toNat_true, Nat.one_mul]

theorem toNat_cons_false {n : Nat} (w : BitVec n) : (w.cons false).toNat = w.toNat := by
  rw [BitVec.toNat_cons', Bool.toNat_false, Nat.zero_shiftLeft, Nat.zero_add]

/-- The better of the least words with either first bit is the least word: every word with a set first bit is the larger. -/
theorem leastWord_betterOf {n : Nat} {cost : BitVec (n + 1) → Nat} {x y : Nat × Nat}
    (ofClear : LeastWord (fun w => cost (w.cons false)) x) (ofSet : LeastWord (fun w => cost (w.cons true)) y) :
    LeastWord cost (betterOf x (y.1, 2 ^ n + y.2)) := by
  obtain ⟨⟨wx, rfl⟩, belowX⟩ := ofClear
  obtain ⟨⟨wy, rfl⟩, belowY⟩ := ofSet
  have small := wx.isLt
  have firstBit : ∀ w : BitVec (n + 1), ∃ b, ∃ rest : BitVec n, w = rest.cons b := fun w =>
    ⟨_, _, (BitVec.cons_msb_setWidth w).symm⟩
  unfold betterOf
  split
  · rename_i less
    refine ⟨⟨wy.cons true, by rw [toNat_cons_true]⟩, fun w => ?_⟩
    obtain ⟨b, rest, rfl⟩ := firstBit w
    have aboveX := belowX rest
    have aboveY := belowY rest
    cases b
    · dsimp only at *
      omega
    · rw [toNat_cons_true]
      dsimp only at *
      omega
  · rename_i notLess
    refine ⟨⟨wx.cons false, by rw [toNat_cons_false]⟩, fun w => ?_⟩
    obtain ⟨b, rest, rfl⟩ := firstBit w
    have aboveX := belowX rest
    have aboveY := belowY rest
    cases b
    · rw [toNat_cons_false]
      exact aboveX
    · rw [toNat_cons_true]
      dsimp only at *
      omega

/-! ### The table of completions (R156) -/

/-- A table by register value holds at each value what was computed for it. -/
theorem getD_map_range_toNat {α : Type} (f : BitVec 4 → α) (reg : BitVec 4) (d : α) :
    ((List.range 16).map fun r => f (BitVec.ofNat 4 r)).getD reg.toNat d = f reg := by
  have within : reg.toNat < 16 := reg.isLt
  simp [List.getD_eq_getElem?_getD, within]

/-- The distance of received values from the symbols of a word and its tail zeros, sent from a register value. -/
def wordDistance (tail pairs : List RxPair) (reg : BitVec 4) {n : Nat} (w : BitVec n) : Nat :=
  distance (valuesOf (pairs ++ tail)) (symbolsFrom reg (bitsOf w ++ zeros tail.length))

theorem wordDistance_cons (tail : List RxPair) (v : RxPair) (pairs : List RxPair) (reg : BitVec 4) {n : Nat} (b : Bool)
    (w : BitVec n) :
    wordDistance tail (v :: pairs) reg (w.cons b) = pairDistance v reg b + wordDistance tail pairs (shiftIn reg b) w := by
  rw [wordDistance, bitsOf_cons, List.cons_append, List.cons_append, distance_symbolsFrom_cons, wordDistance]

/-- Each entry of the table is the least word of the bits still to come. -/
theorem completions_leastWord (tail : List RxPair) (n : Nat) (pairs : List RxPair) (length : pairs.length = n) (reg : BitVec 4) :
    LeastWord (n := n) (wordDistance tail pairs reg) ((completions tail pairs).getD reg.toNat (0, 0)) := by
  induction n generalizing pairs reg with
  | zero =>
    cases List.length_eq_zero_iff.1 length
    rw [completions, getD_map_range_toNat fun r => (tailDistance tail r, 0), tailDistance_eq]
    exact ⟨⟨0, rfl⟩, fun w => by cases BitVec.eq_nil w; exact ⟨Nat.le_refl _, fun _ => Nat.le_refl _⟩⟩
  | succ n ih =>
    obtain ⟨v, rest, rfl⟩ := List.exists_cons_of_length_eq_add_one length
    have remaining : rest.length = n := Nat.succ.inj length
    have after : ∀ b, LeastWord (fun w : BitVec n => wordDistance tail (v :: rest) reg (w.cons b))
        (pairDistance v reg b + ((completions tail rest).getD (shiftIn reg b).toNat (0, 0)).1,
          ((completions tail rest).getD (shiftIn reg b).toNat (0, 0)).2) := fun b => by
      simp only [wordDistance_cons]
      exact (ih rest remaining (shiftIn reg b)).add (pairDistance v reg b)
    have better := leastWord_betterOf (after false) (after true)
    rw [completions, remaining, getD_map_range_toNat fun r =>
      betterOf (extend (completions tail rest) v r false (2 ^ n)) (extend (completions tail rest) v r true (2 ^ n))]
    simpa [extend] using better

/-- The decoder finds the least word of a cell. -/
theorem decodeBurst_leastWord (received : List RxValue) (full : received.length = 56) :
    LeastWord (fun w => distance received (codeword w)) ((decodeBurst received).1, (decodeBurst received).2.toNat) := by
  obtain ⟨length, whole⟩ := pairsOf_even 28 received full
  have least := completions_leastWord ((pairsOf received).drop 24) 24 ((pairsOf received).take 24) (by simp [length]) 0
  have cost : wordDistance ((pairsOf received).drop 24) ((pairsOf received).take 24) 0 =
      fun w : BitVec 24 => distance received (codeword w) := by
    funext w
    rw [wordDistance, List.take_append_drop, whole, List.length_drop, length, codeword_eq_symbolsFrom]
  rw [cost] at least
  obtain ⟨w, found⟩ := least.1
  have decoded : decodeBurst received = (distance received (codeword w), w) := by
    have best : (completions ((pairsOf received).drop 24) ((pairsOf received).take 24)).getD 0 (0, 0) = _ := found
    rw [decodeBurst, best, BitVec.ofNat_toNat, BitVec.setWidth_eq]
  rw [decoded, ← found]
  exact least

/-- Settles O56: the distance place by place, and the least word by the table of completions. -/
theorem burstDecodesToTheNearestWord : Obligations.BurstDecodesToTheNearestWord := by
  intro received full
  obtain ⟨⟨w, found⟩, nearest⟩ := decodeBurst_leastWord received full
  obtain ⟨dist, value⟩ := Prod.mk.inj found
  have decoded : (decodeBurst received).2 = w := BitVec.eq_of_toNat_eq value
  have bounded := distance_le_length received (codeword w) (by simp [full])
  refine ⟨fun code length => ?_, by rw [decoded]; exact dist, ?_, nearest⟩
  · rw [distance_eq_countP received code (full.trans length.symm), length]
  · rw [length_codeword] at bounded
    exact dist.trans_le bounded

end Sys2Proof.Machine
end

section
/-! PROOF. What waits: no command touches the queue of commands, and none leaves a notice queue with more than 32 notices
(R165, R168, R174). Said once for all 47 commands. -/

namespace Sys2Proof.Machine

open Sys2Proof

variable {s t u : State} {k : SlotIdx} {c : Callout} {p : Port}

/-! ### The two lines -/

/-- The commands that wait are the same, and no notice queue grows past 32 notices. -/
structure State.linesKept (s t : State) : Prop where
  pending : t.pending = s.pending
  notices : ∀ p : Port, (s.port p).queue.length ≤ 32 → (t.port p).queue.length ≤ 32

theorem State.linesKept_refl (s : State) : s.linesKept s := ⟨rfl, fun _ => id⟩

theorem State.linesKept_trans (h : s.linesKept t) (g : t.linesKept u) : s.linesKept u :=
  ⟨g.pending.trans h.pending, fun p bounded => g.notices p (h.notices p bounded)⟩

theorem State.linesKept_of_eq (pending : t.pending = s.pending) (ports : t.ports = s.ports) : s.linesKept t :=
  ⟨pending, fun p bounded => by rw [State.port, ports]; exact bounded⟩

/-- A frame equation, which says that a state with some fields of `t` put back is `s`, carries the lines over. -/
theorem State.linesKept_of_frame (frame : u = s) (h : u.linesKept t) : s.linesKept t := frame ▸ h

/-- Notices are offered to queues of at most 32 (R174). -/
theorem State.noticed.linesKept (told : s.noticed t) : s.linesKept t :=
  ⟨(congrArg State.pending told.1 :), fun p => (told.2 p).2.2.2.2.2⟩

theorem State.linesKept_raiseNotice (s : State) (route : PortSet) (n : Notice) : s.linesKept (s.raiseNotice route n) :=
  (s.noticed_raiseNotice route n).linesKept

/-- Notices and then a slot replaced. -/
theorem State.linesKept_told {x : Option Callout} (told : s.noticed u) : s.linesKept (u.setSlot k x) :=
  State.linesKept_trans told.linesKept (State.linesKept_of_eq rfl rfl)

/-- A port's record replaced by one with no more notices. -/
theorem State.linesKept_setPort {x : PortState} (fewer : x.queue.length ≤ (s.port p).queue.length) :
    s.linesKept (s.setPort p x) := by
  refine ⟨rfl, fun r bounded => ?_⟩
  by_cases same : r = p
  · subst same
    rw [State.port_setPort_self]
    exact fewer.trans bounded
  · rw [State.port_setPort_other _ _ same]
    exact bounded

theorem State.linesKept_respond (s : State) (p : Port) (bytes : List Byte) : s.linesKept (s.respond p bytes) :=
  State.linesKept_setPort le_rfl

/-! ### The callout engine's operations -/

theorem State.linesKept_startStep (s : State) (k : SlotIdx) (i : Nat) (c : Callout) : s.linesKept (s.startStep k i c) := by
  obtain ⟨u, c', told, started, -, -⟩ := s.startStep_effect k i c
  rw [started]
  exact State.linesKept_told told

theorem State.linesKept_expireHold (s : State) (k : SlotIdx) (c : Callout) (run : ActiveRun) :
    s.linesKept (s.expireHold k c run) := by
  obtain ⟨u, c', told, expired, -, -⟩ := s.expireHold_effect k c run
  rw [expired]
  exact State.linesKept_told told

theorem State.linesKept_settle (s : State) (k : SlotIdx) (c : Callout) : s.linesKept (s.settle k c) :=
  State.linesKept_of_frame (s.settle_frame k c).1 (State.linesKept_of_eq rfl rfl)

/-- A slot freed, with its notice (R34, R57). -/
theorem State.linesKept_free (s : State) (k : SlotIdx) (c : Callout) (why : FreedReason) : s.linesKept (s.free k c why) :=
  State.linesKept_trans (t := s.setSlot k none) (State.linesKept_of_eq rfl rfl) (State.linesKept_raiseNotice _ _ _)

theorem State.linesKept_merge (s : State) (p : Port) (k : SlotIdx) (c : Callout) (priority : BitVec 3) :
    s.linesKept (s.merge p k c priority) :=
  State.linesKept_trans (t := s.setSlot k _) (State.linesKept_of_eq rfl rfl) (State.linesKept_raiseNotice _ _ _)

theorem State.linesKept_allocate (s : State) (p : Port) (k : SlotIdx) (c : Callout) : s.linesKept (s.allocate p k c) := by
  unfold State.allocate
  refine State.linesKept_trans ?_ (State.linesKept_startStep _ k 0 c)
  refine State.linesKept_trans ?_ (State.linesKept_raiseNotice _ _ _)
  exact State.linesKept_of_eq rfl rfl

theorem State.linesKept_escalateTo (s : State) (k : SlotIdx) (c : Callout) (i : PlanIdx) :
    s.linesKept (s.escalateTo k c i) := by
  have planChanged : s.linesKept (if i = c.plan then s else (s.leavePlan c.plan).takeUpPlan i) := by
    split <;> exact State.linesKept_of_eq rfl rfl
  unfold State.escalateTo
  refine State.linesKept_trans ?_ (State.linesKept_startStep _ k 0 _)
  refine State.linesKept_trans ?_ (State.noticed_raiseCrewStatus _ c.crew _).linesKept
  exact State.linesKept_trans planChanged (State.linesKept_settle _ k _)

theorem State.linesKept_cancelCallout (s : State) (k : SlotIdx) (c : Callout) : s.linesKept (s.cancelCallout k c) := by
  have left : s.linesKept ((s.disengage (Engagement.isTo c.number)).leavePlan c.plan) := State.linesKept_of_eq rfl rfl
  unfold State.cancelCallout
  dsimp only
  split
  · exact State.linesKept_of_eq rfl rfl
  · exact State.linesKept_trans left (State.linesKept_free _ k c .cancelled)

theorem State.linesKept_depart (s : State) (k : SlotIdx) (c : Callout) : s.linesKept (s.depart k c) := by
  unfold State.depart
  refine State.linesKept_trans ?_ (State.linesKept_raiseNotice _ _ _)
  exact State.linesKept_of_eq rfl rfl

theorem State.linesKept_releaseCallout (s : State) (k : SlotIdx) (c : Callout) : s.linesKept (s.releaseCallout k c) := by
  have freed : s.linesKept (s.disengage fun e => e = .assigned c.number) := State.linesKept_of_eq rfl rfl
  exact State.linesKept_trans freed (State.linesKept_free _ k c .released)

/-! ### Replies (R70) -/

theorem State.linesKept_withdraw (s : State) (k : SlotIdx) (d : Callout) (r : Reply) : s.linesKept (s.withdraw k d r) := by
  have engaged : s.linesKept (s.engage r.member .free) := State.linesKept_of_eq rfl rfl
  exact State.linesKept_trans (State.linesKept_trans engaged (State.linesKept_settle _ k _)) (s.withdraw_effect k d r).linesKept

theorem State.linesKept_record (s : State) (k : SlotIdx) (c : Callout) (r : Reply) (a : Answer) (mark : Bool) (room : Room) :
    s.linesKept (s.record k c r a mark room) := by
  have engaged : s.linesKept (s.engageReply c.number r.member a mark) :=
    State.linesKept_of_frame (s.engageReply_frame c.number r.member a mark).1 (State.linesKept_of_eq rfl rfl)
  exact State.linesKept_trans (State.linesKept_trans engaged (State.linesKept_settle _ k _))
    (s.record_effect k c r a mark room).linesKept

theorem State.linesKept_handleReply (s : State) (k : SlotIdx) (c : Callout) (r : Reply) :
    s.linesKept (s.handleReply k c r).1 := by
  have outcomes := s.handleReply_cases k c r
  dsimp only at outcomes
  rcases outcomes with ⟨-, full⟩ | ⟨-, full⟩ | ⟨-, ⟨kd, d, -, recorded⟩ | ⟨-, recorded⟩ | ⟨-, recorded⟩⟩
  · rw [full]
    exact s.linesKept_raiseNotice _ _
  · rw [full]
    exact s.linesKept_refl
  · rw [recorded]
    exact State.linesKept_trans (s.linesKept_withdraw kd d r) (State.linesKept_record _ k c r _ _ _)
  · rw [recorded]
    exact s.linesKept_record k c r _ _ _
  · rw [recorded]
    exact s.linesKept_record k c r _ _ _

theorem State.linesKept_takeHandOff (s : State) (h : HandOff) : s.linesKept (s.takeHandOff h) := by
  unfold State.takeHandOff
  split
  · exact s.linesKept_refl
  · split
    · exact s.linesKept_handleReply _ _ _
    · exact s.linesKept_refl

/-! ### The channel's operations -/

theorem State.linesKept_select (s : State) (site : Site) (why : SiteChangeCause) : s.linesKept (s.select site why) :=
  State.linesKept_trans (t := { s with channel := { s.channel with selected := site } }) (State.linesKept_of_eq rfl rfl)
    (s.select_effect site why).linesKept

theorem State.linesKept_sampleSite (s : State) (pins : SitePins) : s.linesKept (s.sampleSite pins) := by
  unfold State.sampleSite
  split
  · exact s.linesKept_refl
  · exact State.linesKept_trans (t := { s with inputs := { s.inputs with site := pins.site } }) (State.linesKept_of_eq rfl rfl)
      (State.linesKept_select _ _ .pin)

theorem State.linesKept_changeChannel (s : State) (new : ChannelState) (why : ChannelCause) :
    s.linesKept (s.changeChannel new why) :=
  State.linesKept_trans (t := { s with channel := { s.channel with state := new } }) (State.linesKept_of_eq rfl rfl)
    (s.changeChannel_effect new why).linesKept

/-- The items returned and the PTT released: no notice yet (R122, R123). -/
theorem State.linesKept_returnUnsent_unkey (s : State) : s.linesKept s.returnUnsent.unkey :=
  State.linesKept_of_frame s.returnUnsent_frame.1 (State.linesKept_of_eq rfl rfl)

theorem State.linesKept_loseReady (s : State) (site : Site) : s.linesKept (s.loseReady site) :=
  State.linesKept_trans s.linesKept_returnUnsent_unkey (State.linesKept_raiseNotice _ _ _)

theorem State.linesKept_keyingDecision (s : State) (pins : SitePins) : s.linesKept (s.keyingDecision pins) := by
  unfold State.keyingDecision
  dsimp only
  split
  · exact State.linesKept_of_eq rfl rfl
  · split
    · split
      · exact State.linesKept_trans (s.linesKept_select _ .failover) (State.linesKept_of_eq rfl rfl)
      · refine State.linesKept_trans ?_ (State.linesKept_raiseNotice _ _ _)
        exact State.linesKept_of_eq rfl rfl
    · exact State.linesKept_trans s.linesKept_returnUnsent_unkey (State.linesKept_raiseNotice _ _ _)

theorem State.linesKept_buildPlan (s : State) : s.linesKept s.buildPlan :=
  State.linesKept_of_frame s.buildPlan_frame.1 (State.linesKept_of_eq rfl rfl)

theorem State.linesKept_openCycle (s : State) (lone : Bool) (pins : SitePins) : s.linesKept (s.openCycle lone pins) := by
  have opened : s.linesKept { s with channel := { s.channel with cycle := s.channel.cycle + 1, pos := .lead lone 0 } } :=
    State.linesKept_of_eq rfl rfl
  have built := State.linesKept_trans opened (State.linesKept_buildPlan _)
  unfold State.openCycle
  refine State.linesKept_trans ?_ (State.linesKept_keyingDecision _ pins)
  refine State.linesKept_trans ?_ (State.linesKept_sampleSite _ pins)
  exact State.linesKept_trans built (State.linesKept_of_eq rfl rfl)

theorem State.linesKept_stopSlots (s : State) : s.linesKept s.stopSlots := by
  have told := s.stopSlots_effect.1.linesKept
  generalize s.stopSlots = stopped at told ⊢
  exact ⟨told.pending, told.notices⟩

theorem State.linesKept_stopChannel (s : State) (why : ChannelCause) : s.linesKept (s.stopChannel why) := by
  unfold State.stopChannel
  refine State.linesKept_trans ?_ (State.linesKept_stopSlots _)
  refine State.linesKept_trans ?_ (State.linesKept_changeChannel _ .stopped why)
  exact State.linesKept_of_eq rfl rfl

theorem State.linesKept_loseClock (s : State) : s.linesKept s.loseClock := by
  unfold State.loseClock
  split
  · have rested : s.linesKept { s.returnUnsent.unkey with
        channel := { s.returnUnsent.unkey.channel with pos := .absent }, rx := .afterReset } :=
      State.linesKept_trans s.linesKept_returnUnsent_unkey (State.linesKept_of_eq rfl rfl)
    dsimp only
    split
    · exact State.linesKept_trans rested (State.linesKept_changeChannel _ _ _)
    · exact State.linesKept_trans rested (State.linesKept_stopChannel _ _)
  · exact s.linesKept_refl

theorem State.linesKept_loseReference (s : State) : s.linesKept s.loseReference := by
  unfold State.loseReference
  refine State.linesKept_trans ?_ (State.linesKept_loseClock _)
  refine State.linesKept_trans ?_ (State.linesKept_raiseNotice _ _ _)
  exact State.linesKept_of_eq rfl rfl

theorem State.linesKept_resumeChannel (s : State) (pins : SitePins) : s.linesKept (s.resumeChannel pins) := by
  unfold State.resumeChannel
  split
  · exact State.linesKept_trans (s.linesKept_changeChannel _ _) (State.linesKept_openCycle _ true pins)
  · exact s.linesKept_refl

theorem State.linesKept_complete (s : State) (e : PlannedItem) : s.linesKept (s.complete e) := by
  have matched := (State.matchCompletion_frame { s.markItem e .sent with tx := (s.markItem e .sent).tx.ended e } e.item).linesKept
  exact ⟨matched.pending, matched.notices⟩

/-! ### The receiver -/

theorem State.linesKept_handOn (s : State) (m : MemberIdx) (a : Answer) (eta : Option Nat) (tag : BitVec 6) :
    s.linesKept (s.handOn m a eta tag) :=
  State.linesKept_of_frame handOn_frame (State.linesKept_of_eq rfl rfl)

theorem State.linesKept_statusReply (s : State) (m : MemberIdx) (v : Availability) : s.linesKept (s.statusReply m v) := by
  unfold State.statusReply
  split
  · exact s.linesKept_refl
  · refine State.linesKept_trans ?_ (State.linesKept_raiseNotice _ _ _)
    exact State.linesKept_of_eq rfl rfl

theorem State.linesKept_accept (s : State) (m : MemberIdx) (w : BitVec 24) : s.linesKept (s.accept m w) := by
  have heard : s.linesKept (s.heard m) := State.linesKept_of_eq rfl rfl
  unfold State.accept
  dsimp only
  split
  · exact State.linesKept_trans heard (State.linesKept_handOn _ m _ _ _)
  · exact State.linesKept_trans heard (State.linesKept_handOn _ m _ _ _)
  · exact State.linesKept_trans heard (State.linesKept_statusReply _ m _)
  · exact State.linesKept_trans heard (State.linesKept_statusReply _ m _)

theorem State.linesKept_settleCell (s : State) (m : MemberIdx) : s.linesKept (s.settleCell m) := by
  unfold State.settleCell
  split
  · exact s.linesKept_refl
  · exact State.linesKept_of_eq rfl rfl
  · exact s.linesKept_accept m _

theorem State.linesKept_closeSection (s : State) : s.linesKept s.closeSection := by
  unfold State.closeSection
  dsimp only
  split
  · exact State.linesKept_of_eq rfl rfl
  · refine State.linesKept_trans ?_ (State.linesKept_raiseNotice _ _ _)
    exact State.linesKept_of_eq rfl rfl

theorem State.linesKept_endCell (s : State) (m : MemberIdx) : s.linesKept (s.endCell m) := by
  have cleared : s.linesKept { s.settleCell m with rx := (s.settleCell m).rx.clearedCell } :=
    State.linesKept_trans (s.linesKept_settleCell m) (State.linesKept_of_eq rfl rfl)
  unfold State.endCell
  dsimp only
  split
  · exact State.linesKept_trans cleared (State.linesKept_closeSection _)
  · exact cleared

/-! ### Requests (R165, R167) -/

theorem State.linesKept_takeRequest {perm : Permission} {body : State → Taken} (kept : s.linesKept (body s).1) :
    s.linesKept (s.takeRequest p perm body) :=
  State.takeRequest_cases s.linesKept_refl (fun _ => s.linesKept_respond p _)
    (State.linesKept_trans kept (State.linesKept_respond _ p _))

theorem raiseBody_linesKept (reference : Quad) (plan priority cls : Byte) (location : Three) :
    s.linesKept (raiseBody p reference plan priority cls location s).1 := by
  unfold raiseBody
  split
  · exact s.linesKept_refl
  · split
    · split
      · exact s.linesKept_merge p _ _ _
      · exact s.linesKept_refl
    · split
      · exact s.linesKept_refl
      · split
        · exact s.linesKept_refl
        · split
          · exact s.linesKept_refl
          · exact s.linesKept_allocate p _ _

/-- A request on a callout that its port may change (R50). -/
theorem State.linesKept_permitted {n : Half} {effect : SlotIdx → Callout → Taken} (kept : ∀ k c, s.linesKept (effect k c).1) :
    s.linesKept (s.permitted p n effect).1 := by
  unfold State.permitted
  split
  · exact s.linesKept_refl
  · split
    · exact kept _ _
    · exact s.linesKept_refl

theorem escalateBody_linesKept (number : Half) (plan : Byte) : s.linesKept (escalateBody p number plan s).1 := by
  refine State.linesKept_permitted fun k c => ?_
  split
  · split
    · split
      · exact s.linesKept_escalateTo k c _
      · exact s.linesKept_refl
    · exact s.linesKept_refl
  · exact s.linesKept_refl

theorem cancelBody_linesKept (number : Half) : s.linesKept (cancelBody p number s).1 := by
  refine State.linesKept_permitted fun k c => ?_
  split
  · exact s.linesKept_cancelCallout k c
  · exact s.linesKept_refl

theorem markDepartedBody_linesKept (number : Half) : s.linesKept (markDepartedBody number s).1 := by
  unfold markDepartedBody
  split
  · exact s.linesKept_refl
  · split
    · exact s.linesKept_depart _ _
    · exact s.linesKept_refl

theorem releaseBody_linesKept (number : Half) : s.linesKept (releaseBody p number s).1 := by
  refine State.linesKept_permitted fun k c => ?_
  split
  · exact s.linesKept_releaseCallout k c
  · exact s.linesKept_refl

theorem recordReplyBody_linesKept (member : Byte) (number : Half) (answer eta : Byte) :
    s.linesKept (recordReplyBody p member number answer eta s).1 := by
  unfold recordReplyBody
  split
  · split
    · split
      · exact s.linesKept_refl
      · split
        · exact s.linesKept_refl
        · split
          · exact s.linesKept_refl
          · exact s.linesKept_handleReply _ _ _
    · exact s.linesKept_refl
  · exact s.linesKept_refl

theorem markArrivedBody_linesKept (member : Byte) (number : Half) : s.linesKept (markArrivedBody p member number s).1 := by
  unfold markArrivedBody
  split
  · exact s.linesKept_refl
  · split
    · split
      · exact s.linesKept_refl
      · split
        · exact s.linesKept_refl
        · split
          · exact s.linesKept_refl
          · exact s.linesKept_handleReply _ _ _
    · exact s.linesKept_refl

theorem setAvailabilityBody_linesKept (member availability : Byte) :
    s.linesKept (setAvailabilityBody p member availability s).1 := by
  unfold setAvailabilityBody
  split
  · split
    · refine State.linesKept_trans ?_ (State.linesKept_raiseNotice _ _ _)
      exact State.linesKept_of_eq rfl rfl
    · exact s.linesKept_refl
  · exact s.linesKept_refl

theorem State.linesKept_storeMember (s : State) (m : MemberIdx) (x : Member) : s.linesKept (s.storeMember m x) := by
  have stored : s.linesKept (s.setMember m x) := State.linesKept_of_eq rfl rfl
  unfold State.storeMember
  split
  · exact stored
  · exact State.linesKept_trans stored (State.linesKept_raiseNotice _ _ _)

theorem writeMemberBody_linesKept (member inUse kind : Byte) (address : Three) (toneGroup quals : Byte) (groups : Half)
    (eta availability : Byte) :
    s.linesKept (writeMemberBody p member inUse kind address toneGroup quals groups eta availability s).1 := by
  unfold writeMemberBody
  split
  · exact s.linesKept_refl
  · split
    · exact s.linesKept_refl
    · split
      · exact s.linesKept_storeMember _ _
      · split
        · exact s.linesKept_refl
        · split
          · split
            · exact s.linesKept_refl
            · exact s.linesKept_storeMember _ _
          · exact s.linesKept_refl

theorem writePlanStepBody_linesKept (plan step kind : Byte) (groups : Half) (count toneGroup condition : Byte) (hold : Half)
    (repeats rate : Byte) :
    s.linesKept (writePlanStepBody plan step kind groups count toneGroup condition hold repeats rate s).1 := by
  unfold writePlanStepBody
  split
  · split
    · exact s.linesKept_refl
    · split
      · exact s.linesKept_refl
      · split <;> exact State.linesKept_of_eq rfl rfl
  · exact s.linesKept_refl

theorem writeTemplateBody_linesKept (plan officer driver wearer total : Byte) (target : Half) :
    s.linesKept (writeTemplateBody plan officer driver wearer total target s).1 := by
  unfold writeTemplateBody
  split
  · exact s.linesKept_refl
  · split
    · exact s.linesKept_refl
    · split <;> exact State.linesKept_of_eq rfl rfl

theorem State.linesKept_readNamed (s : State) (number : Half) (fields : SlotIdx → Callout → List Byte) :
    s.linesKept (s.readNamed number fields).1 := by
  unfold State.readNamed
  split <;> exact s.linesKept_refl

/-- The one request that takes a notice out (R175). -/
theorem readNoticeBody_linesKept (p : Port) : s.linesKept (readNoticeBody p s).1 := by
  unfold readNoticeBody
  dsimp only
  split
  · exact State.linesKept_setPort le_rfl
  · rename_i n rest waiting
    refine State.linesKept_setPort ?_
    rw [waiting]
    exact Nat.le_succ _

theorem setChannelParametersBody_linesKept (station limit threshold mode level : Byte) :
    s.linesKept (setChannelParametersBody station limit threshold mode level s).1 := by
  unfold setChannelParametersBody
  split
  · exact s.linesKept_refl
  · split
    · exact s.linesKept_refl
    · split <;> exact State.linesKept_of_eq rfl rfl

theorem startChannelBody_linesKept (pins : SitePins) : s.linesKept (startChannelBody pins s).1 := by
  unfold startChannelBody
  split
  · exact s.linesKept_refl
  · split
    · exact State.linesKept_trans (s.linesKept_changeChannel _ _) (State.linesKept_openCycle _ true pins)
    · exact s.linesKept_changeChannel _ _

theorem stopChannelBody_linesKept : s.linesKept (stopChannelBody s).1 := by
  unfold stopChannelBody done
  split
  · exact s.linesKept_changeChannel _ _
  · dsimp only
    exact s.linesKept_stopChannel .stop
  · exact s.linesKept_refl

theorem selectSiteBody_linesKept (site : Byte) : s.linesKept (selectSiteBody site s).1 := by
  unfold selectSiteBody
  split
  · exact s.linesKept_refl
  · exact s.linesKept_select _ .request

/-! ### Events -/

theorem execCalloutReply_linesKept (h : execCalloutReply s = .next t) : s.linesKept t := by
  cases h
  split
  · exact s.linesKept_refl
  · split
    · exact s.linesKept_refl
    · refine State.linesKept_trans ?_ (State.linesKept_takeHandOff _ _)
      exact State.linesKept_of_eq rfl rfl

theorem execHoldExpiry_linesKept (h : execHoldExpiry s = .next t) : s.linesKept t := by
  cases h
  split
  · exact s.linesKept_refl
  · split
    · split
      · exact s.linesKept_expireHold _ _ _
      · exact s.linesKept_refl
    · exact s.linesKept_refl

theorem execFrameOpen_linesKept (h : execFrameOpen p s = .next t) : s.linesKept t := by
  cases h
  split
  · exact s.linesKept_refl
  · exact State.linesKept_setPort le_rfl

theorem execFrameClose_linesKept (h : execFrameClose p s = .next t) : s.linesKept t := by
  cases h
  split
  · exact s.linesKept_refl
  · exact State.linesKept_setPort le_rfl

theorem execPlanPoint_linesKept {pins : SitePins} (h : execPlanPoint pins s = .next t) : s.linesKept t := by
  cases h
  split
  · split
    · exact s.linesKept_openCycle false pins
    · exact s.linesKept_stopChannel .endOfCycle
  · exact s.linesKept_refl

theorem execFrameAssembly_linesKept (h : execFrameAssembly s = .next t) : s.linesKept t := by
  cases h
  split
  · split <;> exact State.linesKept_of_eq rfl rfl
  · exact s.linesKept_refl

theorem execToneCallStart_linesKept (h : execToneCallStart s = .next t) : s.linesKept t := by
  cases h
  split
  · split
    · unfold State.startTone
      split <;> exact State.linesKept_of_eq rfl rfl
    · exact s.linesKept_refl
  · exact s.linesKept_refl

theorem execCompletion_linesKept (h : execCompletion s = .next t) : s.linesKept t := by
  cases h
  split
  · split
    · exact s.linesKept_complete _
    · exact s.linesKept_refl
  · exact s.linesKept_refl

theorem execReadyLoss_linesKept {site : Site} (h : execReadyLoss site s = .next t) : s.linesKept t := by
  cases h
  split
  · refine State.linesKept_trans ?_ (State.linesKept_loseReady _ site)
    exact State.linesKept_of_eq rfl rfl
  · exact s.linesKept_refl

theorem execCellEnd_linesKept (h : execCellEnd s = .next t) : s.linesKept t := by
  cases h
  split
  · split
    · split
      · exact s.linesKept_refl
      · exact s.linesKept_endCell _
    · exact s.linesKept_refl
  · exact s.linesKept_refl

theorem execRestoreGap_linesKept (h : execRestoreGap s = .next t) : s.linesKept t := by
  cases h
  split
  · exact s.linesKept_refl
  · split
    · exact s.linesKept_loseReference
    · split <;> exact State.linesKept_of_eq rfl rfl

theorem execRestored_linesKept {pins : SitePins} (h : execRestored pins s = .next t) : s.linesKept t := by
  cases h
  split
  · dsimp only
    refine State.linesKept_trans ?_ (State.linesKept_resumeChannel _ pins)
    refine State.linesKept_trans ?_ (State.linesKept_raiseNotice _ _ _)
    exact State.linesKept_of_eq rfl rfl
  · exact s.linesKept_refl

/-- A reset discards the frames; the notices stay till its end (R180). -/
theorem execReset_linesKept (h : execReset s = .next t) : s.linesKept t := by
  cases h
  exact ⟨rfl, fun p bounded => by cases p <;> exact bounded⟩

/-- The reset contents of the notice queues are empty (R180). -/
theorem execResetEnd_linesKept {pins : ResetPins} (h : execResetEnd pins s = .next t) : s.linesKept t := by
  cases h
  split
  · exact ⟨rfl, fun p _ => by cases p <;> exact Nat.zero_le _⟩
  · exact s.linesKept_refl

/-- The end of the self-test clears the notice queues (R181). -/
theorem execSelfTestEnd_linesKept {results : GroupResults} (h : execSelfTestEnd results s = .next t) : s.linesKept t := by
  cases h
  split
  · exact ⟨rfl, fun p _ => by cases p <;> exact Nat.zero_le _⟩
  · exact s.linesKept_refl

theorem execSymbolTime_linesKept {pins : RxPins} (h : execSymbolTime pins s = .next t) : s.linesKept t := by
  cases h
  split
  · exact State.linesKept_of_frame (s.advanceSymbol_frame pins).1 (State.linesKept_of_eq rfl rfl)
  · exact s.linesKept_refl

/-! ### Every command -/

theorem exec_linesKept (i : Instr) (h : exec i s = .next t) : s.linesKept t := by
  cases i with
  | raise => cases h; exact State.linesKept_takeRequest (raiseBody_linesKept _ _ _ _ _)
  | cancel => cases h; exact State.linesKept_takeRequest (cancelBody_linesKept _)
  | escalate => cases h; exact State.linesKept_takeRequest (escalateBody_linesKept _ _)
  | markDeparted => cases h; exact State.linesKept_takeRequest (markDepartedBody_linesKept _)
  | release => cases h; exact State.linesKept_takeRequest (releaseBody_linesKept _)
  | recordReply => cases h; exact State.linesKept_takeRequest (recordReplyBody_linesKept _ _ _ _)
  | markArrived => cases h; exact State.linesKept_takeRequest (markArrivedBody_linesKept _ _)
  | calloutReply => exact execCalloutReply_linesKept h
  | setAvailability => cases h; exact State.linesKept_takeRequest (setAvailabilityBody_linesKept _ _)
  | writeMember => cases h; exact State.linesKept_takeRequest (writeMemberBody_linesKept _ _ _ _ _ _ _ _ _)
  | readMember =>
    cases h; refine State.linesKept_takeRequest ?_
    unfold readMemberBody; split <;> exact s.linesKept_refl
  | writePlanStep => cases h; exact State.linesKept_takeRequest (writePlanStepBody_linesKept _ _ _ _ _ _ _ _ _ _)
  | writeTemplate => cases h; exact State.linesKept_takeRequest (writeTemplateBody_linesKept _ _ _ _ _ _)
  | readPlan =>
    cases h; refine State.linesKept_takeRequest ?_
    unfold readPlanBody; split <;> exact s.linesKept_refl
  | writeToneFrequency =>
    cases h; refine State.linesKept_takeRequest ?_
    unfold writeToneFrequencyBody; split <;> exact State.linesKept_of_eq rfl rfl
  | writeTonePair =>
    cases h; refine State.linesKept_takeRequest ?_
    unfold writeTonePairBody; split <;> exact State.linesKept_of_eq rfl rfl
  | readToneTables => cases h; exact State.linesKept_takeRequest s.linesKept_refl
  | listCallouts => cases h; exact State.linesKept_takeRequest s.linesKept_refl
  | readCallout => cases h; exact State.linesKept_takeRequest (s.linesKept_readNamed _ _)
  | readResponders => cases h; exact State.linesKept_takeRequest (s.linesKept_readNamed _ _)
  | readCrew => cases h; exact State.linesKept_takeRequest (s.linesKept_readNamed _ _)
  | readNotice => cases h; exact State.linesKept_takeRequest (readNoticeBody_linesKept _)
  | readStatus => cases h; exact State.linesKept_takeRequest s.linesKept_refl
  | setChannelParameters => cases h; exact State.linesKept_takeRequest (setChannelParametersBody_linesKept _ _ _ _ _)
  | startChannel => cases h; exact State.linesKept_takeRequest (startChannelBody_linesKept _)
  | stopChannel => cases h; exact State.linesKept_takeRequest stopChannelBody_linesKept
  | selectSite => cases h; exact State.linesKept_takeRequest (selectSiteBody_linesKept _)
  | unknownRequest => cases h; split <;> [exact s.linesKept_respond _ _; exact s.linesKept_refl]
  | frameOpen => exact execFrameOpen_linesKept h
  | frameClose => exact execFrameClose_linesKept h
  | oneSecondTick => cases h; split <;> exact State.linesKept_of_eq rfl rfl
  | holdExpiry => exact execHoldExpiry_linesKept h
  | planPoint => exact execPlanPoint_linesKept h
  | frameAssembly => exact execFrameAssembly_linesKept h
  | toneCallStart => exact execToneCallStart_linesKept h
  | completion => exact execCompletion_linesKept h
  | keyedPeriodEnd => cases h; split <;> exact State.linesKept_of_eq rfl rfl
  | readyLoss => exact execReadyLoss_linesKept h
  | cellEnd => exact execCellEnd_linesKept h
  | referenceLost => cases h; split <;> [exact s.linesKept_loseReference; exact s.linesKept_refl]
  | restoreGap => exact execRestoreGap_linesKept h
  | restored => exact execRestored_linesKept h
  | reset => exact execReset_linesKept h
  | resetEnd => exact execResetEnd_linesKept h
  | selfTestEnd => exact execSelfTestEnd_linesKept h
  | symbolTime => exact execSymbolTime_linesKept h
  | sampleTime => cases h; split <;> exact State.linesKept_of_eq rfl rfl

/-- A clock period moves clocks alone (R183, R185). -/
theorem State.linesKept_clockPeriod (s : State) : s.linesKept s.clockPeriod :=
  State.linesKept_of_frame s.clockPeriod_frame.1 (State.linesKept_of_eq rfl rfl)

/-- Settles O13: a clock period moves clocks alone, and every command keeps the bound of each queue. -/
theorem noticeQueuesStayBounded : Obligations.NoticeQueuesStayBounded := by
  intro s t bounded h
  unfold step at h
  split at h
  · cases h
    exact fun p => s.linesKept_clockPeriod.notices p (bounded p)
  · rename_i i rest _
    exact fun p => (exec_linesKept (s := { s with pending := rest }) i h).notices p (bounded p)

/-! ### Every command answers -/

/-- No arm of a command stops or refuses. -/
theorem exec_answers (i : Instr) (s : State) : ∃ t, exec i s = .next t := by cases i <;> exact ⟨_, rfl⟩

/-- Settles O2: the next state by the command's arm, and the commands that wait with the notices. -/
theorem commandsAnswerAndLeaveTheQueue : Obligations.CommandsAnswerAndLeaveTheQueue := by
  intro i s
  obtain ⟨t, answered⟩ := exec_answers i s
  exact ⟨t, answered, (exec_linesKept i answered).pending⟩

end Sys2Proof.Machine
end

section
/-! PROOF. The bytes and bits of request frames: what they spell, and from which bit on (R164 to R167, R171, 11.2). -/

namespace Sys2Proof.Machine

open Sys2Proof

variable {p : Port} {pins : SitePins} {code : Byte}

/-! ### Fields of several bytes (R164) -/

theorem half_extractLsb' (w : Half) : half (w.extractLsb' 8 8) (w.extractLsb' 0 8) = w :=
  BitVec.extractLsb'_append_extractLsb' (w := 8) (len := 8)

theorem three_extractLsb' (w : Three) : three (w.extractLsb' 16 8) (w.extractLsb' 8 8) (w.extractLsb' 0 8) = w := by
  rw [three, BitVec.extractLsb'_append_extractLsb'_eq_extractLsb' (start₂ := 16) (start₁ := 8) rfl]
  exact BitVec.extractLsb'_append_extractLsb' (w := 16) (len := 8)

theorem quad_extractLsb' (w : Quad) :
    quad (w.extractLsb' 24 8) (w.extractLsb' 16 8) (w.extractLsb' 8 8) (w.extractLsb' 0 8) = w := by
  rw [quad, BitVec.extractLsb'_append_extractLsb'_eq_extractLsb' (start₂ := 24) (start₁ := 16) rfl,
    BitVec.extractLsb'_append_extractLsb'_eq_extractLsb' (start₂ := 16) (start₁ := 8) rfl]
  exact BitVec.extractLsb'_append_extractLsb' (w := 24) (len := 8)

/-! ### Codes (R171) -/

theorem namesRequest_iff : ∀ code : Byte, namesRequest code = true ↔ requestLength code ≠ none := by decide +kernel

theorem requestLength_eq_none : requestLength code = none ↔ namesRequest code = false := by
  rw [← Bool.not_eq_true, namesRequest_iff, not_not]

/-- A code that names no request is a request's worth by itself (R167). -/
theorem decodeFrame_unknown (unnamed : requestLength code = none) (rest : List Byte) :
    decodeFrame p pins (code :: rest) = some (.unknownRequest p code) := by
  unfold requestLength at unnamed
  split at unnamed
  case h_27 => simp only [decodeFrame]
  all_goals cases unnamed

/-! ### The request's bytes read one after the other -/

/-- A reading of `n` bytes: it takes exactly the first `n`, and none when there are fewer. -/
def ReadsBytes (n : Nat) (read : List Byte → Option Instr) : Prop :=
  ∀ bytes : List Byte, (read bytes = none ↔ bytes.length < n) ∧
    ∀ extra, n ≤ bytes.length → read (bytes ++ extra) = read bytes

theorem ReadsBytes.whole (c : Instr) : ReadsBytes 0 fun _ => some c :=
  fun _ => ⟨⟨nofun, nofun⟩, fun _ _ => rfl⟩

theorem ReadsBytes.byte {n : Nat} {read : List Byte → Option Instr} (short : read [] = none)
    (later : ∀ b, ReadsBytes n fun bytes => read (b :: bytes)) : ReadsBytes (n + 1) read := by
  intro bytes
  cases bytes with
  | nil => exact ⟨⟨fun _ => Nat.succ_pos n, fun _ => short⟩, nofun⟩
  | cons b rest =>
    obtain ⟨ends, more⟩ := later b rest
    exact ⟨ends.trans Nat.succ_lt_succ_iff.symm, fun extra long => more extra (Nat.le_of_succ_le_succ long)⟩

theorem readsBytes_numberField (make : Half → Instr) : ReadsBytes 2 (numberField make) :=
  .byte rfl fun _ => .byte rfl fun _ => .whole _

theorem readsBytes_byteField (make : Byte → Instr) : ReadsBytes 1 (byteField make) :=
  .byte rfl fun _ => .whole _

theorem readsBytes_decodeRaise : ReadsBytes 10 (decodeRaise p) :=
  .byte rfl fun _ => .byte rfl fun _ => .byte rfl fun _ => .byte rfl fun _ => .byte rfl fun _ => .byte rfl fun _ =>
    .byte rfl fun _ => .byte rfl fun _ => .byte rfl fun _ => .byte rfl fun _ => .whole _

theorem readsBytes_decodeEscalate : ReadsBytes 3 (decodeEscalate p) :=
  .byte rfl fun _ => .byte rfl fun _ => .byte rfl fun _ => .whole _

theorem readsBytes_decodeRecordReply : ReadsBytes 5 (decodeRecordReply p) :=
  .byte rfl fun _ => .byte rfl fun _ => .byte rfl fun _ => .byte rfl fun _ => .byte rfl fun _ => .whole _

theorem readsBytes_decodeMarkArrived : ReadsBytes 3 (decodeMarkArrived p) :=
  .byte rfl fun _ => .byte rfl fun _ => .byte rfl fun _ => .whole _

theorem readsBytes_decodeSetAvailability : ReadsBytes 2 (decodeSetAvailability p) :=
  .byte rfl fun _ => .byte rfl fun _ => .whole _

theorem readsBytes_decodeWriteMember : ReadsBytes 12 (decodeWriteMember p) :=
  .byte rfl fun _ => .byte rfl fun _ => .byte rfl fun _ => .byte rfl fun _ => .byte rfl fun _ => .byte rfl fun _ =>
    .byte rfl fun _ => .byte rfl fun _ => .byte rfl fun _ => .byte rfl fun _ => .byte rfl fun _ => .byte rfl fun _ => .whole _

theorem readsBytes_decodeWritePlanStep : ReadsBytes 12 (decodeWritePlanStep p) :=
  .byte rfl fun _ => .byte rfl fun _ => .byte rfl fun _ => .byte rfl fun _ => .byte rfl fun _ => .byte rfl fun _ =>
    .byte rfl fun _ => .byte rfl fun _ => .byte rfl fun _ => .byte rfl fun _ => .byte rfl fun _ => .byte rfl fun _ => .whole _

theorem readsBytes_decodeWriteTemplate : ReadsBytes 7 (decodeWriteTemplate p) :=
  .byte rfl fun _ => .byte rfl fun _ => .byte rfl fun _ => .byte rfl fun _ => .byte rfl fun _ => .byte rfl fun _ =>
    .byte rfl fun _ => .whole _

theorem readsBytes_decodeWriteToneFrequency : ReadsBytes 3 (decodeWriteToneFrequency p) :=
  .byte rfl fun _ => .byte rfl fun _ => .byte rfl fun _ => .whole _

theorem readsBytes_decodeWriteTonePair : ReadsBytes 3 (decodeWriteTonePair p) :=
  .byte rfl fun _ => .byte rfl fun _ => .byte rfl fun _ => .whole _

theorem readsBytes_decodeSetChannelParameters : ReadsBytes 5 (decodeSetChannelParameters p) :=
  .byte rfl fun _ => .byte rfl fun _ => .byte rfl fun _ => .byte rfl fun _ => .byte rfl fun _ => .whole _

/-- The bytes after a code that names a request are its fields, in the length of R171. -/
theorem readsBytes_decodeFrame {n : Nat} (named : requestLength code = some n) :
    ∃ k, n = k + 1 ∧ ReadsBytes k fun rest => decodeFrame p pins (code :: rest) := by
  unfold requestLength at named
  split at named
  case h_27 => cases named
  all_goals
    rename_i value
    simp only [decodeFrame, value]
    refine ⟨_, (Option.some.inj named).symm, ?_⟩
  case h_1 => exact readsBytes_decodeRaise
  case h_2 => exact readsBytes_numberField _
  case h_3 => exact readsBytes_decodeEscalate
  case h_4 => exact readsBytes_numberField _
  case h_5 => exact readsBytes_numberField _
  case h_6 => exact readsBytes_decodeRecordReply
  case h_7 => exact readsBytes_decodeMarkArrived
  case h_8 => exact readsBytes_decodeSetAvailability
  case h_9 => exact readsBytes_decodeWriteMember
  case h_10 => exact readsBytes_byteField _
  case h_11 => exact readsBytes_decodeWritePlanStep
  case h_12 => exact readsBytes_decodeWriteTemplate
  case h_13 => exact readsBytes_byteField _
  case h_14 => exact readsBytes_decodeWriteToneFrequency
  case h_15 => exact readsBytes_decodeWriteTonePair
  case h_16 => exact .whole _
  case h_17 => exact .whole _
  case h_18 => exact readsBytes_numberField _
  case h_19 => exact readsBytes_numberField _
  case h_20 => exact readsBytes_numberField _
  case h_21 => exact .whole _
  case h_22 => exact .whole _
  case h_23 => exact readsBytes_decodeSetChannelParameters
  case h_24 => exact .whole _
  case h_25 => exact .whole _
  case h_26 => exact readsBytes_byteField _

/-- A named request is spelt by the bytes its code takes and by no fewer (R164, R165). -/
theorem decodeFrame_eq_none {n : Nat} (named : requestLength code = some n) (rest : List Byte) :
    decodeFrame p pins (code :: rest) = none ↔ (code :: rest).length < n := by
  obtain ⟨k, rfl, reads⟩ := readsBytes_decodeFrame (p := p) (pins := pins) named
  exact (reads rest).1.trans Nat.succ_lt_succ_iff.symm

/-- Bytes after a request's last change nothing (R164). -/
theorem decodeFrame_append {n : Nat} (named : requestLength code = some n) {rest : List Byte}
    (whole : n ≤ (code :: rest).length) (extra : List Byte) :
    decodeFrame p pins (code :: rest ++ extra) = decodeFrame p pins (code :: rest) := by
  obtain ⟨k, rfl, reads⟩ := readsBytes_decodeFrame (p := p) (pins := pins) named
  exact (reads rest).2 extra (Nat.le_of_succ_le_succ whole)

/-! ### Bits (R164) -/

theorem getMsbD_byte (b : Byte) {i : Nat} (place : i < 8) : b.getMsbD i = b.getLsbD (7 - i) := by
  rw [BitVec.getMsbD_eq_getLsbD, decide_eq_true place, Bool.true_and]

theorem bitsOfBytes_eq (bytes : List Byte) :
    bitsOfBytes bytes = bytes.flatMap fun b => (List.range 8).map fun i => b.getLsbD (7 - i) := by
  refine congrArg bytes.flatMap (funext fun b => List.map_congr_left fun i place => ?_)
  exact getMsbD_byte b (List.mem_range.1 place)

/-- At least eight bits are a byte's and those after it. -/
theorem eq_byte_cons {bits : List Bool} (long : 8 ≤ bits.length) :
    ∃ b7 b6 b5 b4 b3 b2 b1 b0 rest, bits = b7 :: b6 :: b5 :: b4 :: b3 :: b2 :: b1 :: b0 :: rest := by
  match bits with
  | [] | [_] | [_, _] | [_, _, _] | [_, _, _, _] | [_, _, _, _, _] | [_, _, _, _, _, _] | [_, _, _, _, _, _, _] =>
    exact absurd long (by simp)
  | _ :: _ :: _ :: _ :: _ :: _ :: _ :: _ :: _ => exact ⟨_, _, _, _, _, _, _, _, _, rfl⟩

theorem length_bytesOfBits (bits : List Bool) : (bytesOfBits bits).length = bits.length / 8 := by
  fun_induction bytesOfBits bits with
  | case1 b7 b6 b5 b4 b3 b2 b1 b0 rest ih => simp only [List.length_cons, ih]; omega
  | case2 bits short =>
    refine (Nat.div_eq_of_lt (Nat.lt_of_not_le fun long => ?_)).symm
    obtain ⟨b7, b6, b5, b4, b3, b2, b1, b0, rest, rfl⟩ := eq_byte_cons long
    exact short _ _ _ _ _ _ _ _ _ rfl

theorem getElem?_byteOfBits (b7 b6 b5 b4 b3 b2 b1 b0 : Bool) {j : Nat} (place : j < 8) :
    [b7, b6, b5, b4, b3, b2, b1, b0][j]? = some ((byteOfBits b7 b6 b5 b4 b3 b2 b1 b0).getLsbD (7 - j)) := by
  rw [← getMsbD_byte _ place, byteOfBits, BitVec.getMsbD_ofBoolListBE, List.getD_eq_getElem _ _ place]
  exact List.getElem?_eq_getElem place

/-- Bit `j` of byte `i` is the bit taken after `8 i + j` others. -/
theorem getElem?_bytesOfBits {bits : List Bool} {i : Nat} {b : Byte} (spelt : (bytesOfBits bits)[i]? = some b) {j : Nat}
    (place : j < 8) : bits[8 * i + j]? = some (b.getLsbD (7 - j)) := by
  fun_induction bytesOfBits bits generalizing i with
  | case1 b7 b6 b5 b4 b3 b2 b1 b0 rest ih =>
    cases i with
    | zero =>
      cases spelt
      have bit := getElem?_byteOfBits b7 b6 b5 b4 b3 b2 b1 b0 place
      rw [← List.getElem?_append_left (l₂ := rest) (by exact place)] at bit
      rw [Nat.mul_zero, Nat.zero_add]
      exact bit
    | succ i =>
      rw [show 8 * (i + 1) + j = 8 * i + j + 8 by omega]
      exact ih spelt
  | case2 => cases spelt

/-- The request of a frame's bits is taken at the last bit of its last byte (R164, R165). -/
theorem decodeBits_eq_none {bits : List Bool} {n : Nat} (first : (bytesOfBits bits).head? = some code)
    (named : requestLength code = some n) : decodeBits p pins bits = none ↔ bits.length < 8 * n := by
  obtain ⟨rest, spelt⟩ := List.head?_eq_some_iff.1 first
  rw [decodeBits, spelt, decodeFrame_eq_none named, ← spelt, length_bytesOfBits]
  omega

/-- Settles O6: the lengths of R171, the grouping of the bits, and the reading of the fields byte after byte. -/
theorem requestTakenAtItsLastByte : Obligations.RequestTakenAtItsLastByte := by
  refine ⟨by decide, fun bits => ⟨length_bytesOfBits bits, fun i b spelt j place => getElem?_bytesOfBits spelt place⟩,
    fun p pins bits code n first named => decodeBits_eq_none first named, fun p pins code rest extra => ⟨namesRequest_iff code,
      fun n named => ⟨decodeFrame_eq_none named rest, fun whole => decodeFrame_append named whole extra⟩,
      fun unnamed => decodeFrame_unknown unnamed rest⟩⟩

/-! ### Frames read back (R164, R171) -/

/-- The bytes of a well-formed request spell it. -/
theorem decodeFrame_encodeFrame {c : Instr} {bytes : List Byte} (formed : c.wellFormed = true)
    (encoded : encodeFrame c = some (p, bytes)) : decodeFrame p (takePins pins c) bytes = some c := by
  cases c with
  | unknownRequest q code =>
    cases encoded
    exact decodeFrame_unknown (requestLength_eq_none.2 (by simpa [Instr.wellFormed] using formed)) []
  | raise _ reference plan priority cls location =>
    cases encoded
    exact congrArg₂ (fun x y => some (Instr.raise p x plan priority cls y)) (quad_extractLsb' reference)
      (three_extractLsb' location)
  | cancel _ number => cases encoded; exact congrArg (fun x => some (Instr.cancel p x)) (half_extractLsb' number)
  | escalate _ number plan => cases encoded; exact congrArg (fun x => some (Instr.escalate p x plan)) (half_extractLsb' number)
  | markDeparted _ number => cases encoded; exact congrArg (fun x => some (Instr.markDeparted p x)) (half_extractLsb' number)
  | release _ number => cases encoded; exact congrArg (fun x => some (Instr.release p x)) (half_extractLsb' number)
  | recordReply _ member number answer eta =>
    cases encoded
    exact congrArg (fun x => some (Instr.recordReply p member x answer eta)) (half_extractLsb' number)
  | markArrived _ member number =>
    cases encoded
    exact congrArg (fun x => some (Instr.markArrived p member x)) (half_extractLsb' number)
  | writeMember _ member inUse kind address toneGroup quals groups eta availability =>
    cases encoded
    exact congrArg₂ (fun x y => some (Instr.writeMember p member inUse kind x toneGroup quals y eta availability))
      (three_extractLsb' address) (half_extractLsb' groups)
  | writePlanStep _ plan step kind groups count toneGroup condition hold repeats rate =>
    cases encoded
    exact congrArg₂ (fun x y => some (Instr.writePlanStep p plan step kind x count toneGroup condition y repeats rate))
      (half_extractLsb' groups) (half_extractLsb' hold)
  | writeTemplate _ plan officer driver wearer total target =>
    cases encoded
    exact congrArg (fun x => some (Instr.writeTemplate p plan officer driver wearer total x)) (half_extractLsb' target)
  | writeToneFrequency _ index frequency =>
    cases encoded
    exact congrArg (fun x => some (Instr.writeToneFrequency p index x)) (half_extractLsb' frequency)
  | readCallout _ number => cases encoded; exact congrArg (fun x => some (Instr.readCallout p x)) (half_extractLsb' number)
  | readResponders _ number => cases encoded; exact congrArg (fun x => some (Instr.readResponders p x)) (half_extractLsb' number)
  | readCrew _ number => cases encoded; exact congrArg (fun x => some (Instr.readCrew p x)) (half_extractLsb' number)
  | setAvailability | readMember | readPlan | writeTonePair | readToneTables | listCallouts | readNotice | readStatus
  | setChannelParameters | startChannel | stopChannel | selectSite => cases encoded; rfl
  | calloutReply | frameOpen | frameClose | oneSecondTick | holdExpiry | planPoint | frameAssembly | toneCallStart | completion
  | keyedPeriodEnd | readyLoss | cellEnd | referenceLost | restoreGap | restored | reset | resetEnd | selfTestEnd | symbolTime
  | sampleTime => cases encoded

/-- Settles O5: the fields put together from their bytes, and the bytes from their bits. -/
theorem requestFramesReadBack : Obligations.RequestFramesReadBack := by
  intro c p bytes pins formed encoded
  have spelt := decodeFrame_encodeFrame (pins := pins) formed encoded
  refine ⟨spelt, fun tail short => ?_⟩
  rw [← bitsOfBytes_eq, decodeBits, bytesOfBits_bitsOfBytes bytes tail short]
  exact spelt

end Sys2Proof.Machine
end

section
/-! PROOF. The checks before a request's own (R167, R170), the frames and the data line (R164 to R166), and Read notice (R175,
R176). -/

namespace Sys2Proof.Machine

open Sys2Proof

variable {s : State} {p : Port}

/-! ### The checks of R167 -/

theorem State.testing_iff : s.testing = true ↔ s.sup.selfTest = .testing := by
  unfold State.testing
  split
  · rename_i testing
    exact ⟨fun _ => testing, fun _ => rfl⟩
  · rename_i r ended
    exact ⟨nofun, fun testing => by rw [ended] at testing; cases testing⟩

theorem State.faultMode_iff : s.faultMode = true ↔ ∃ r : GroupResults, s.sup.selfTest = .ended r ∧
    (r.roster = true ∨ r.callouts = true ∨ r.plansAndTones = true ∨ r.noticeQueues = true) := by
  unfold State.faultMode
  split
  · rename_i testing
    exact ⟨nofun, fun ⟨r, ended, _⟩ => by rw [testing] at ended; cases ended⟩
  · rename_i r ended
    exact ⟨fun failed => ⟨r, ended, anyFailed_iff.1 failed⟩,
      fun ⟨q, ended', failed⟩ => by rw [ended] at ended'; cases ended'; exact anyFailed_iff.2 failed⟩

theorem State.gate_busy (testing : s.testing = true) (perm : Permission) : s.gate p perm = some .busy := by
  simp only [State.gate, testing, if_true]

theorem State.gate_cls {perm : Permission} (ended : s.testing = false) (station : perm.needsStation = true)
    (dispatch : (s.port p).cls = .dispatch) : s.gate p perm = some .cls := by
  simp [State.gate, ended, station, dispatch]

theorem State.gate_fault {perm : Permission} (ended : s.testing = false)
    (station : perm.needsStation = true → (s.port p).cls = .station) (working : perm.needsWorking = true)
    (fault : s.faultMode = true) : s.gate p perm = some .fault := by
  have passes : (perm.needsStation && decide ((s.port p).cls = .dispatch)) = false := by
    cases needs : perm.needsStation
    · rfl
    · rw [station needs]; rfl
  simp [State.gate, ended, passes, working, fault]

/-- Every known request is taken behind the checks of R167, with the permission of R170. -/
theorem exec_of_requestOf {c : Instr} {perm : Permission} (known : requestOf c = some (p, perm)) :
    ∃ body : State → Taken, ∀ s, exec c s = .next (s.takeRequest p perm body) := by
  cases c <;> cases known <;> exact ⟨_, fun _ => rfl⟩

/-- A known request that a check of R167 stops is answered with the check's result. -/
theorem exec_stopped {c : Instr} {perm : Permission} {r : Result} (known : requestOf c = some (p, perm))
    (listening : s.listening p = true) (stops : s.gate p perm = some r) : exec c s = .next (s.respond p [r.code]) := by
  obtain ⟨body, taken⟩ := exec_of_requestOf known
  rw [taken, State.takeRequest_stopped listening stops]

theorem exec_unknownRequest {code : Byte} (listening : s.listening p = true) (unnamed : namesRequest code = false) :
    exec (.unknownRequest p code) s = .next (s.respond p [8]) := by
  have answers : (s.listening p && !namesRequest code) = true := by rw [listening, unnamed]; rfl
  exact congrArg Host.Outcome.next (if_pos answers)

/-- Settles O8: the checks in their order, each by the result it gives. -/
theorem portChecksComeFirst : Obligations.PortChecksComeFirst := by
  refine ⟨fun s => ⟨State.testing_iff, State.faultMode_iff⟩, fun s p listening =>
    ⟨fun c perm known =>
      ⟨fun testing => ?busy, fun ended station dispatch => ?cls, fun ended station working fault => ?fault⟩,
      fun code unnamed => exec_unknownRequest listening unnamed⟩⟩
  case busy => exact exec_stopped known listening (State.gate_busy testing perm)
  case cls => exact exec_stopped known listening (State.gate_cls ended station dispatch)
  case fault => exact exec_stopped known listening (State.gate_fault ended station working fault)

/-! ### Frames (R164 to R166) -/

theorem State.listening_iff : s.listening p = true ↔ s.sup.held = false ∧ (s.port p).frame = .receiving := by
  simp [State.listening]

theorem State.drivesData_iff : s.drivesData p = true ↔ (s.port p).frame ≠ .closed := decide_eq_true_iff

theorem State.responseByte_receiving (receiving : (s.port p).frame = .receiving) (n : Nat) : s.responseByte p n = 0 := by
  simp only [State.responseByte, receiving]

theorem State.responseByte_responding {bytes : List Byte} (responding : (s.port p).frame = .responding bytes) (n : Nat) :
    s.responseByte p n = bytes[n]?.getD 0 := by
  simp only [State.responseByte, responding, List.getD_eq_getElem?_getD]

theorem State.responseBit_open (driven : (s.port p).frame ≠ .closed) (n : Nat) :
    s.responseBit p n = some ((s.responseByte p (n / 8)).getLsbD (7 - n % 8)) := by
  rw [State.responseBit, if_pos (State.drivesData_iff.2 driven), getMsbD_byte _ (Nat.mod_lt n (by decide))]

theorem State.responseBit_closed (closed : (s.port p).frame = .closed) (n : Nat) : s.responseBit p n = none :=
  if_neg fun driven => State.drivesData_iff.1 driven closed

theorem State.setPort_frame (s : State) (p : Port) (x : PortState) : { s.setPort p x with ports := s.ports } = s := rfl

theorem exec_frameOpen (released : s.sup.held = false) (high : (s.port p).selLow = false) :
    exec (.frameOpen p) s = .next (s.setPort p { s.port p with frame := .receiving, selLow := true }) := by
  have opens : ¬ (s.sup.held || (s.port p).selLow) = true := by rw [released, high]; exact Bool.false_ne_true
  exact congrArg Host.Outcome.next (if_neg opens)

theorem exec_frameClose (released : s.sup.held = false) :
    exec (.frameClose p) s = .next (s.setPort p { s.port p with frame := .closed, selLow := false }) :=
  congrArg Host.Outcome.next (if_neg (by rw [released]; exact Bool.false_ne_true))

/-- Settles O7: the data line by the state of the frame, and the opening and closing as a port's record replaced. -/
theorem framesOpenAndClose : Obligations.FramesOpenAndClose := by
  refine ⟨fun s p => ⟨State.listening_iff, State.drivesData_iff, fun n receiving => State.responseByte_receiving receiving n,
      fun bytes responding => ⟨fun n b place => ?inside, fun n past => ?past⟩, fun n driven => State.responseBit_open driven n,
      fun n closed => State.responseBit_closed closed n, fun bytes => ⟨State.port_respond_self s p bytes,
        fun q other => State.port_respond_other s bytes other, s.setPort_frame p _⟩⟩,
    fun s p released => ⟨fun high => ⟨_, exec_frameOpen released high, State.port_setPort_self s p _,
        fun q other => State.port_setPort_other s _ other, s.setPort_frame p _⟩,
      _, exec_frameClose released, State.port_setPort_self s p _, fun q other => State.port_setPort_other s _ other,
        s.setPort_frame p _⟩⟩
  case inside => rw [State.responseByte_responding responding, place, Option.getD_some]
  case past => rw [State.responseByte_responding responding, List.getElem?_eq_none past, Option.getD_none]

/-! ### Read notice (R175, R176) -/

/-- The port after Read notice: the oldest notice taken out and the mark cleared (R175). -/
def PortState.noticeRead (x : PortState) : PortState := { x with queue := x.queue.tail, overflow := false }

/-- The response of Read notice, the result byte with it (R175, R190). -/
def PortState.noticeResponse (x : PortState) : List Byte :=
  0 :: (if x.overflow then 1 else 0) ::
    match x.queue with
    | [] => [0, 0, 0, 255, 0, 0, 0, 0]
    | n :: _ => n.bytes

theorem readNoticeBody_eq (s : State) (p : Port) :
    readNoticeBody p s = (s.setPort p (s.port p).noticeRead, (s.port p).noticeResponse) := by
  unfold readNoticeBody
  obtain ⟨cls, frame, queue, overflow, selLow⟩ := s.port p
  cases queue <;> rfl

/-- The state after a Read notice that is carried out. -/
def State.afterReadNotice (s : State) (p : Port) : State :=
  (s.setPort p (s.port p).noticeRead).respond p (s.port p).noticeResponse

theorem exec_readNotice (listening : s.listening p = true) (ended : s.testing = false) :
    exec (.readNotice p) s = .next (s.afterReadNotice p) := by
  show Host.Outcome.next _ = _
  rw [State.takeRequest_any ⟨listening, ended⟩, readNoticeBody_eq]
  rfl

theorem State.port_afterReadNotice (s : State) (p : Port) : (s.afterReadNotice p).port p =
    { (s.port p).noticeRead with frame := .responding (s.port p).noticeResponse } := by
  rw [State.afterReadNotice, State.port_respond_self, State.port_setPort_self]

theorem State.port_afterReadNotice_other {q : Port} (other : q ≠ p) : (s.afterReadNotice p).port q = s.port q := by
  rw [State.afterReadNotice, State.port_respond_other _ _ other, State.port_setPort_other _ _ other]

/-- The line after a Read notice follows the queue that is left, as R176 gives (log entry 19). -/
theorem State.attention_afterReadNotice (released : s.sup.held = false) :
    (s.afterReadNotice p).attention p = true ↔ (s.port p).queue.tail ≠ [] := by
  rw [State.attention_iff, State.port_afterReadNotice]
  exact ⟨fun ⟨_, line⟩ => line.resolve_right Bool.false_ne_true, fun left => ⟨released, .inl left⟩⟩

/-- Settles O11: the test of the self-test, the notice taken out, and the closing after it. -/
theorem readNoticeTakesTheOldest : Obligations.ReadNoticeTakesTheOldest := by
  intro s p listening
  have released := (State.listening_iff.1 listening).1
  refine ⟨fun testing => exec_stopped (perm := .any) rfl listening (State.gate_busy testing .any), fun ended =>
    ⟨_, exec_readNotice listening ended, s.port_afterReadNotice p, fun q other => State.port_afterReadNotice_other other, rfl,
      State.attention_afterReadNotice released, fun u closed => ?_⟩⟩
  rw [exec_frameClose (s := s.afterReadNotice p) released] at closed
  cases closed
  rw [State.port_setPort_self, State.port_afterReadNotice]
  exact ⟨rfl, rfl⟩

end Sys2Proof.Machine
end

section
/-! PROOF. Events that cannot occur change nothing (R164, R180, R183 to R186), and the clock period that passes with no command
waiting. -/

namespace Sys2Proof.Machine

open Sys2Proof

variable {s : State} {p : Port}

/-! ### The clock and the reset -/

theorem State.clocked_iff : s.clocked = true ↔ s.sup.held = false ∧ s.sup.clock = .reference := by
  simp [State.clocked]

theorem State.clocked_eq_false (stopped : s.sup.held = true ∨ s.sup.clock = .internal) : s.clocked = false := by
  rw [← Bool.not_eq_true, State.clocked_iff]
  rintro ⟨released, reference⟩
  rcases stopped with held | internal
  · rw [held] at released; cases released
  · rw [internal] at reference; cases reference

theorem State.listening_held (held : s.sup.held = true) : s.listening p = false := by
  rw [State.listening, held]; rfl

theorem State.tickDue_iff : s.tickDue = true ↔ 9830400 ≤ s.sup.tickPhase := decide_eq_true_iff

theorem State.restoreDue_iff : s.restoreDue = true ↔ ∃ n, s.sup.restore = .measuring n ∧ 9830400 ≤ n := by
  unfold State.restoreDue
  split
  · rename_i idle
    exact ⟨nofun, fun ⟨n, measuring, _⟩ => by rw [idle] at measuring; cases measuring⟩
  · rename_i n measuring
    refine decide_eq_true_iff.trans ⟨fun due => ⟨n, measuring, due⟩, fun ⟨m, measuring', due⟩ => ?_⟩
    rw [measuring] at measuring'
    cases measuring'
    exact due

theorem State.tickDue_eq_false (early : s.sup.tickPhase < 9830400) : s.tickDue = false :=
  decide_eq_false (Nat.not_le.2 early)

theorem State.restoreDue_eq_false (short : ∀ n, s.sup.restore = .measuring n → n < 9830400) : s.restoreDue = false := by
  rw [← Bool.not_eq_true, State.restoreDue_iff]
  rintro ⟨n, measuring, due⟩
  exact Nat.not_le.2 (short n measuring) due

/-! ### Requests and frames (R164) -/

/-- What has request bytes is a known request or an Unknown one (R171). -/
theorem requestOf_of_encodeFrame {c : Instr} {bytes : List Byte} (encoded : encodeFrame c = some (p, bytes)) :
    (∃ perm, requestOf c = some (p, perm)) ∨ ∃ code, c = .unknownRequest p code := by
  cases c with
  | unknownRequest _ code => cases encoded; exact .inr ⟨code, rfl⟩
  | _ => cases encoded <;> exact .inl ⟨_, rfl⟩

theorem exec_unknownRequest_still {code : Byte} (still : s.listening p = false ∨ namesRequest code = true) :
    exec (.unknownRequest p code) s = .next s := by
  refine congrArg Host.Outcome.next (if_neg ?_)
  rcases still with closed | named
  · rw [closed]; exact Bool.false_ne_true
  · rw [named, Bool.not_true, Bool.and_false]; exact Bool.false_ne_true

/-- A port whose frame is not Receiving takes no request (R164). -/
theorem exec_not_listening {c : Instr} {bytes : List Byte} (encoded : encodeFrame c = some (p, bytes))
    (closed : s.listening p = false) : exec c s = .next s := by
  rcases requestOf_of_encodeFrame encoded with ⟨perm, known⟩ | ⟨code, rfl⟩
  · obtain ⟨body, taken⟩ := exec_of_requestOf known
    rw [taken, State.takeRequest_closed closed]
  · exact exec_unknownRequest_still (.inl closed)

theorem exec_frameOpen_still (still : s.sup.held = true ∨ (s.port p).selLow = true) : exec (.frameOpen p) s = .next s :=
  congrArg Host.Outcome.next (if_pos (Bool.or_eq_true_iff.2 still))

/-! ### Events of the callout engine and of supervision -/

theorem exec_calloutReply_still (still : s.sup.held = true ∨ s.handOffs = []) : exec .calloutReply s = .next s := by
  refine congrArg Host.Outcome.next ?_
  split
  · rfl
  · rename_i released
    rw [still.resolve_left released]

theorem exec_oneSecondTick_still (still : s.sup.held = true ∨ s.tickDue = false) : exec .oneSecondTick s = .next s := by
  refine congrArg Host.Outcome.next (if_pos (Bool.or_eq_true_iff.2 (still.imp id fun early => ?_)))
  rw [early]; rfl

theorem Callout.isDue_eq_false {c : Callout}
    (running : ∀ deadline repeats rate, c.lifecycle ≠ .active ⟨.holding deadline true, repeats, rate⟩) : c.isDue = false := by
  unfold Callout.isDue
  split
  · rename_i deadline due repeats rate holding
    cases due
    · rfl
    · exact absurd holding (running _ _ _)
  · rfl

theorem exec_holdExpiry_still (still : s.sup.held = true ∨ s.findSlot Callout.isDue = none) :
    exec .holdExpiry s = .next s := by
  refine congrArg Host.Outcome.next ?_
  split
  · rfl
  · rename_i released
    rw [still.resolve_left released]

theorem exec_restoreGap_still (still : s.sup.held = true ∨ s.sup.clock = .internal ∧ s.sup.restore = .idle) :
    exec .restoreGap s = .next s := by
  refine congrArg Host.Outcome.next ?_
  split
  · rfl
  · rename_i released
    obtain ⟨internal, idle⟩ := still.resolve_left released
    rw [internal, if_neg nofun, idle]

theorem exec_restored_still {pins : SitePins}
    (still : s.sup.held = true ∨ s.sup.clock = .reference ∨ s.restoreDue = false) : exec (.restored pins) s = .next s := by
  refine congrArg Host.Outcome.next (if_neg ?_)
  rcases still with held | reference | short
  · rw [held]; exact Bool.false_ne_true
  · rw [reference]; simp
  · rw [short]; simp

theorem exec_resetEnd_still {pins : ResetPins} (released : s.sup.held = false) : exec (.resetEnd pins) s = .next s :=
  congrArg Host.Outcome.next (if_neg (by rw [released]; exact Bool.false_ne_true))

theorem exec_selfTestEnd_still {results : GroupResults} (still : s.sup.held = true ∨ s.testing = false) :
    exec (.selfTestEnd results) s = .next s := by
  refine congrArg Host.Outcome.next (if_neg ?_)
  rcases still with held | ended
  · rw [held]; exact Bool.false_ne_true
  · rw [ended]; simp

/-! ### Events of the cycle (R112, R184) -/

theorem exec_planPoint_still {pins : SitePins} (still : s.clocked = false ∨ s.planPointDue = false) :
    exec (.planPoint pins) s = .next s :=
  congrArg Host.Outcome.next (if_neg (by rcases still with h | h <;> simp [h]))

theorem exec_keyedPeriodEnd_still (still : s.clocked = false ∨ s.periodEnding = false) : exec .keyedPeriodEnd s = .next s :=
  congrArg Host.Outcome.next (if_neg (by rcases still with h | h <;> simp [h]))

theorem exec_completion_still (still : s.clocked = false ∨ s.completing = none) : exec .completion s = .next s := by
  refine congrArg Host.Outcome.next ?_
  rcases still with stopped | none
  · rw [stopped]; rfl
  · rw [none]; exact ite_self s

theorem exec_frameAssembly_still (still : s.clocked = false ∨ s.assembling = none) : exec .frameAssembly s = .next s := by
  refine congrArg Host.Outcome.next ?_
  rcases still with stopped | none
  · rw [stopped]; rfl
  · rw [none]; exact ite_self s

theorem exec_toneCallStart_still (still : s.clocked = false ∨ s.startingTone = none) : exec .toneCallStart s = .next s := by
  refine congrArg Host.Outcome.next ?_
  rcases still with stopped | none
  · rw [stopped]; rfl
  · rw [none]; exact ite_self s

theorem exec_cellEnd_still (still : s.clocked = false ∨ s.endingCell = none) : exec .cellEnd s = .next s := by
  refine congrArg Host.Outcome.next ?_
  rcases still with stopped | none
  · rw [stopped]; rfl
  · rw [none]; exact ite_self s

theorem exec_readyLoss_still {site : Site} (still : s.sup.held = true ∨ s.channel.keyed ≠ some site) :
    exec (.readyLoss site) s = .next s :=
  congrArg Host.Outcome.next (if_neg (by rcases still with h | h <;> simp [h]))

theorem State.advanceSymbol_absent (absent : s.channel.pos = .absent) (pins : RxPins) : s.advanceSymbol pins = s := by
  simp only [State.advanceSymbol, absent]

theorem exec_symbolTime_still {pins : RxPins} (still : s.clocked = false ∨ s.channel.state.cycling = false ∨
    s.eventDue = true ∨ s.channel.pos = .absent) : exec (.symbolTime pins) s = .next s := by
  refine congrArg Host.Outcome.next ?_
  rcases still with h | h | h | absent
  iterate 3 exact if_neg (by simp [h])
  rw [State.advanceSymbol_absent absent, ite_self]

theorem exec_sampleTime_still (stopped : s.clocked = false) : exec .sampleTime s = .next s :=
  congrArg Host.Outcome.next (if_neg (by rw [stopped]; exact Bool.false_ne_true))

theorem exec_referenceLost_still (stopped : s.clocked = false) : exec .referenceLost s = .next s :=
  congrArg Host.Outcome.next (if_neg (by rw [stopped]; exact Bool.false_ne_true))

/-- Where no cycle runs no event of one is due (R112). -/
theorem State.no_event_of_absent (absent : s.channel.pos = .absent) : s.planPointDue = false ∧ s.assembling = none ∧
    s.startingTone = none ∧ s.completing = none ∧ s.periodEnding = false ∧ s.endingCell = none := by
  refine ⟨?_, ?_, ?_, ?_, ?_, ?_⟩
  · simp [State.planPointDue, absent]
  · simp [State.assembling, absent]
  · simp [State.startingTone, absent]
  · simp [State.completing, absent]
  · simp [State.periodEnding, absent]
  · simp [State.endingCell, absent]

theorem State.planPointDue_idle (idle : s.channel.state.cycling = false) : s.planPointDue = false := by
  simp only [State.planPointDue, idle, Bool.false_and]

/-- No event of the cycle and no symbol time is taken without the clock, or where no cycle runs. -/
theorem exec_cycleEvents_still (still : s.clocked = false ∨ s.channel.pos = .absent) :
    (∀ pins, exec (.planPoint pins) s = .next s) ∧ exec .frameAssembly s = .next s ∧ exec .toneCallStart s = .next s ∧
      exec .completion s = .next s ∧ exec .keyedPeriodEnd s = .next s ∧ exec .cellEnd s = .next s ∧
      ∀ pins, exec (.symbolTime pins) s = .next s := by
  rcases still with stopped | absent
  · exact ⟨fun _ => exec_planPoint_still (.inl stopped), exec_frameAssembly_still (.inl stopped),
      exec_toneCallStart_still (.inl stopped), exec_completion_still (.inl stopped), exec_keyedPeriodEnd_still (.inl stopped),
      exec_cellEnd_still (.inl stopped), fun _ => exec_symbolTime_still (.inl stopped)⟩
  · obtain ⟨planPoint, assembling, tone, completing, ending, cell⟩ := State.no_event_of_absent absent
    exact ⟨fun _ => exec_planPoint_still (.inr planPoint), exec_frameAssembly_still (.inr assembling),
      exec_toneCallStart_still (.inr tone), exec_completion_still (.inr completing), exec_keyedPeriodEnd_still (.inr ending),
      exec_cellEnd_still (.inr cell), fun _ => exec_symbolTime_still (.inr (.inr (.inr absent)))⟩

/-! ### A part held in reset (R180) -/

/-- While the part is held no command but RESET and RESET_END has an effect (log entry 11). -/
theorem exec_held {c : Instr} (held : s.sup.held = true) (other : c ≠ .reset) (unended : ∀ pins, c ≠ .resetEnd pins) :
    exec c s = .next s := by
  have stopped := State.clocked_eq_false (.inl held)
  cases c with
  | calloutReply => exact exec_calloutReply_still (.inl held)
  | frameOpen => exact exec_frameOpen_still (.inl held)
  | frameClose => exact congrArg Host.Outcome.next (if_pos held)
  | oneSecondTick => exact exec_oneSecondTick_still (.inl held)
  | holdExpiry => exact exec_holdExpiry_still (.inl held)
  | planPoint => exact exec_planPoint_still (.inl stopped)
  | frameAssembly => exact exec_frameAssembly_still (.inl stopped)
  | toneCallStart => exact exec_toneCallStart_still (.inl stopped)
  | completion => exact exec_completion_still (.inl stopped)
  | keyedPeriodEnd => exact exec_keyedPeriodEnd_still (.inl stopped)
  | readyLoss => exact exec_readyLoss_still (.inl held)
  | cellEnd => exact exec_cellEnd_still (.inl stopped)
  | referenceLost => exact exec_referenceLost_still stopped
  | restoreGap => exact exec_restoreGap_still (.inl held)
  | restored => exact exec_restored_still (.inl held)
  | reset => exact absurd rfl other
  | resetEnd pins => exact absurd rfl (unended pins)
  | selfTestEnd => exact exec_selfTestEnd_still (.inl held)
  | symbolTime => exact exec_symbolTime_still (.inl stopped)
  | sampleTime => exact exec_sampleTime_still stopped
  | _ => exact exec_not_listening rfl (State.listening_held held)

/-! ### The clock period (R183, R185) -/

theorem step_idle (idle : s.pending = []) : step s = .next s.clockPeriod := by
  unfold step
  rw [idle]

theorem State.clockPeriod_held (held : s.sup.held = true) : s.clockPeriod = s := by
  simp only [State.clockPeriod, held, Bool.true_or, if_true]

theorem State.clockPeriod_passes (released : s.sup.held = false) (early : s.tickDue = false) (short : s.restoreDue = false) :
    (s.sup.clock = .reference → s.clockPeriod = { s with sup := { s.sup with tickPhase := s.sup.tickPhase + 1 } }) ∧
      (s.sup.clock = .internal → s.clockPeriod = { s with
        edgesRead := s.edgesRead + 1
        sup := { s.sup with
          tickPhase := s.sup.tickPhase + 1
          restore := s.sup.restore.advanced (Config.referenceEdges s.edgesRead) } }) := by
  unfold State.clockPeriod
  rw [released, early, short, if_neg (by decide)]
  constructor <;> intro source <;> rw [source]

/-- Settles O3, clause by clause. -/
theorem undueEventsChangeNothing : Obligations.UndueEventsChangeNothing := by
  refine fun s => ⟨State.clocked_iff, fun c p bytes encoded closed => exec_not_listening encoded closed,
    fun p code named => exec_unknownRequest_still (.inr named), fun p low => exec_frameOpen_still (.inr low),
    fun none => exec_calloutReply_still (.inr none), fun early => exec_oneSecondTick_still (.inr ?tick),
    fun running => exec_holdExpiry_still (.inr (State.findSlot_none.2 fun k c held => Callout.isDue_eq_false (running k c held))),
    fun none => exec_completion_still (.inr none), fun none => exec_frameAssembly_still (.inr none),
    fun none => exec_toneCallStart_still (.inr none), fun going => exec_keyedPeriodEnd_still (.inr going),
    fun none => exec_cellEnd_still (.inr none), fun pins undue => exec_planPoint_still (.inr undue),
    fun site unkeyed => exec_readyLoss_still (.inr unkeyed), fun pins due => exec_symbolTime_still (.inr (.inr (.inl due))),
    fun held => ⟨fun c other unended => exec_held held other unended, fun idle => ?held⟩,
    fun still => exec_cycleEvents_still ?cycle, fun idle => ?idle,
    fun stopped =>
      ⟨exec_sampleTime_still (State.clocked_eq_false stopped), exec_referenceLost_still (State.clocked_eq_false stopped)⟩,
    fun internal idle => exec_restoreGap_still (.inr ⟨internal, idle⟩), fun pins still => exec_restored_still (.inr ?restored),
    fun pins released => exec_resetEnd_still released, fun results ended => exec_selfTestEnd_still (.inr ended),
    fun idle released => ⟨fun due => ?due, fun early short => ?passes⟩⟩
  case tick => exact State.tickDue_eq_false early
  case held => rw [step_idle idle, State.clockPeriod_held held]
  case cycle =>
    rcases still with held | internal | absent
    · exact .inl (State.clocked_eq_false (.inl held))
    · exact .inl (State.clocked_eq_false (.inr internal))
    · exact .inr absent
  case idle =>
    have still : s.channel.state.cycling = false := by rcases idle with here | here <;> rw [here] <;> rfl
    exact ⟨fun pins => exec_planPoint_still (.inr (State.planPointDue_idle still)),
      fun pins => exec_symbolTime_still (.inr (.inl still))⟩
  case restored => exact still.imp_right State.restoreDue_eq_false
  case due =>
    rw [step_idle idle, s.clockPeriod_due (due.imp State.tickDue_iff.2 State.restoreDue_iff.2)]
  case passes =>
    obtain ⟨reference, internal⟩ :=
      State.clockPeriod_passes released (State.tickDue_eq_false early) (State.restoreDue_eq_false short)
    rw [step_idle idle]
    exact ⟨fun source => congrArg Host.Outcome.next (reference source),
      fun source => congrArg Host.Outcome.next (internal source)⟩

end Sys2Proof.Machine
end

section
/-! PROOF. The layouts and lengths of the responses (11.2, R171, R189, R190). -/

namespace Sys2Proof.Machine

open Sys2Proof

/-! ### Lengths -/

@[simp] theorem length_halfBytes (w : Half) : (halfBytes w).length = 2 := rfl

@[simp] theorem length_twoBytes (n : Nat) : (twoBytes n).length = 2 := rfl

@[simp] theorem length_optTwoBytes (o : Option Nat) : (optTwoBytes o).length = 2 := by cases o <;> rfl

/-- Records of one length, one after the other. -/
theorem length_flatMap_of_record {α : Type} {f : α → List Byte} {n : Nat} (record : ∀ x, (f x).length = n) (l : List α) :
    (l.flatMap f).length = n * l.length := by
  rw [List.length_flatMap, List.map_congr_left fun x _ => record x, List.map_const', List.sum_replicate, smul_eq_mul,
    Nat.mul_comm]

theorem PlanStep.length_fields (x : PlanStep) : x.fields.length = 8 := by cases x <;> rfl

theorem length_slotFields (x : Option Callout) : (slotFields x).length = 3 := by cases x <;> rfl

theorem Entry.length_fields (e : Entry) : e.fields.length = 11 := by
  unfold Entry.fields
  simp

theorem Callout.length_seatFields (c : Callout) (x : SeatRecord) : (c.seatFields x).length = 4 := by
  unfold Callout.seatFields
  split <;> simp

/-! ### Fields -/

/-- An address or a location in three bytes, its own bits in the lower two (11.2). -/
theorem threeBytes_setWidth {w : Nat} (x : BitVec w) :
    threeBytes (x.setWidth 24) = [(x.setWidth 24).extractLsb' 16 8, x.extractLsb' 8 8, x.extractLsb' 0 8] := by
  rw [threeBytes, BitVec.extractLsb'_setWidth_of_le (start := 8) (by decide),
    BitVec.extractLsb'_setWidth_of_le (start := 0) (by decide)]

theorem flagByte_runnable (x : Plan) : flagByte x.runnable = if x.steps[0] = .finish then 0 else 1 := by
  unfold flagByte Plan.runnable
  by_cases ends : x.steps[0] = .finish <;> simp [ends]

theorem Callout.seatFields_eq (c : Callout) (x : SeatRecord) : c.seatFields x = match x.member with
    | none => [x.role.code, 255, 255, 255]
    | some m => x.role.code :: byteOf m.val :: optTwoBytes ((c.entries.find? fun e => e.member = m).bind (·.estimate)) := by
  unfold Callout.seatFields
  cases x.member <;> rfl

theorem flatten_noSeatFields (n : Nat) : (List.replicate n noSeatFields).flatten = List.replicate (4 * n) 255 := by
  rw [Nat.mul_comm]
  exact List.flatten_replicate_replicate (m := 4)

/-! ### The Standby candidates in order (R105) -/

/-- The estimate by which a Standby entry is ranked (log entry 14). -/
def Entry.rank (e : Entry) : Nat := e.estimate.getD 4095

/-- One entry stands at or before another in rank order: by estimate, then by member index (R105). -/
def Entry.ranksAtOrBefore (x y : Entry) : Prop := x.rank < y.rank ∨ (x.rank = y.rank ∧ x.member ≤ y.member)

theorem Callout.standby_perm (c : Callout) : c.standby.Perm (c.entries.filter fun e => e.seat = .standby) := sortBy_perm _ _

theorem Callout.standby_pairwise (c : Callout) : c.standby.Pairwise Entry.ranksAtOrBefore := by
  refine sortBy_pairwise _ _ _ (fun x y before => ?_) (fun x y after => ?_) fun x y z first second => ?_
  · simp only [Bool.or_eq_true, Bool.and_eq_true, decide_eq_true_eq] at before
    exact before.imp id fun ⟨same, less⟩ => ⟨same, le_of_lt less⟩
  · simp only [Bool.or_eq_false_iff, Bool.and_eq_false_iff, decide_eq_false_iff_not, ← imp_iff_not_or] at after
    obtain ⟨least, tie⟩ := after
    rcases Nat.lt_or_eq_of_le (Nat.le_of_not_lt least) with less | same
    · exact .inl less
    · exact .inr ⟨same, le_of_not_gt (tie same.symm)⟩
  · rcases first with first | ⟨same, least⟩
    · exact .inl (second.elim first.trans fun tie => tie.1 ▸ first)
    · exact second.imp (same ▸ ·) fun tie => ⟨same.trans tie.1, least.trans tie.2⟩

theorem Callout.length_standby (c : Callout) : c.standby.length = (c.entries.filter fun e => e.seat = .standby).length :=
  c.standby_perm.length_eq

/-- Settles O10, record by record: the codes, then each layout by the cases of what it reports, and its length. -/
theorem responsesHaveTheirLengths : Obligations.ResponsesHaveTheirLengths := by
  unfold Obligations.ResponsesHaveTheirLengths
  intro two flag num num2 opt opt2
  refine ⟨?codes, fun x => ⟨rfl, ?member⟩, fun x => ⟨?planLength, ?plan⟩, fun x => ⟨?tablesLength, rfl⟩,
    fun s => ⟨?slotsLength, ?slots⟩, fun c k => ⟨?calloutLength, ?callout⟩, fun c => ⟨?listLength, rfl⟩,
    fun c seats roles => ⟨?crewLength, c.standby, c.standby_perm, c.standby_pairwise, ?crew⟩, fun n => ⟨rfl, rfl⟩,
    fun s p => ⟨rfl, fun r reported => ?status⟩⟩
  case codes =>
    exact ⟨rfl, rfl, rfl, rfl, rfl, rfl, rfl, rfl, rfl, rfl, rfl, rfl, rfl, fun _ => toNat_byteOf, rfl, rfl⟩
  case member =>
    obtain ⟨inUse, pager, quals, defaultEta, availability, source, engagement, lastHeard⟩ := x
    cases pager with
    | digital a groups =>
      simp only [Member.fields, Member.groups, threeBytes_setWidth]
      cases engagement <;> cases lastHeard <;> rfl
    | absent | tone =>
      simp only [Member.fields, Member.groups]
      cases engagement <;> cases lastHeard <;> rfl
  case planLength =>
    rw [Plan.fields, List.length_append, length_flatMap_of_record PlanStep.length_fields, Vector.length_toList]
    rfl
  case plan =>
    rw [Plan.fields, flagByte_runnable]
    refine congrArg (_ ++ List.flatMap · x.steps.toList) (funext fun step => ?_)
    rcases step with _ | ⟨_ | _ | _ | _, _, _, _⟩ <;> rfl
  case tablesLength =>
    rw [Transmit.tableFields, List.length_append, length_flatMap_of_record length_halfBytes,
      length_flatMap_of_record (n := 2) fun _ => rfl, Vector.length_toList, Vector.length_toList]
  case slotsLength => rw [length_flatMap_of_record length_slotFields, Vector.length_toList]
  case slots =>
    refine congrArg (List.flatMap · s.slots.toList) (funext fun slot => ?_)
    cases slot <;> rfl
  case calloutLength => simp [Callout.fields, quadBytes, threeBytes]
  case callout =>
    unfold Callout.fields
    rw [threeBytes_setWidth]
    generalize c.lifecycle = lifecycle
    rcases lifecycle with ⟨⟨_ | _ | _ | _, _, _ | _⟩⟩ | _ | _ <;> rfl
  case listLength =>
    rw [Callout.listFields, List.length_append, length_flatMap_of_record Entry.length_fields]
    exact Nat.add_right_comm 4 _ 1
  case crewLength =>
    have standbyFields := length_flatMap_of_record (f := fun e : Entry => byteOf e.member :: optTwoBytes e.estimate) (n := 3)
      (fun e => congrArg Nat.succ (length_optTwoBytes e.estimate)) c.standby
    simp only [Callout.crewFields, RoleCounts.fields, flatten_noSeatFields, List.length_append, List.length_cons, List.length_nil,
      List.length_map, List.length_replicate, length_halfBytes, length_twoBytes, length_optTwoBytes, standbyFields,
      length_flatMap_of_record c.length_seatFields, c.length_standby]
    omega
  case crew =>
    simp only [Callout.crewFields, RoleCounts.fields, flatten_noSeatFields, funext c.seatFields_eq, c.length_standby,
      List.append_assoc, List.cons_append, List.nil_append] <;> rfl
  case status =>
    have selfTest : s.sup.selfTest.resultByte = resultsCode r ∧ s.faultMode = anyFailed r := by
      unfold State.faultMode
      rcases reported with ended | ⟨testing, rfl⟩
      · rw [ended]; exact ⟨rfl, rfl⟩
      · rw [testing]; exact ⟨rfl, rfl⟩
    rw [State.statusFields, selfTest.1, selfTest.2]
    rcases s.channel.keyed with _ | _ | _ <;> cases p <;> rfl

end Sys2Proof.Machine
end

section

/-! # The command at the front of the queue -/

namespace Sys2Proof.Machine

open Sys2Proof

/-- The branch of `step` in which a command waits; `step_idle` is the other one. -/
theorem step_front {c : Instr} {rest : List Instr} {s : State} (front : s.pending = c :: rest) :
    step s = exec c { s with pending := rest } := by
  unfold step
  rw [front]

/-- Settles O1: the state with `c` put at the front is one in which a command waits, and its rest of the queue is `rest`. -/
theorem stepTakesTheFrontCommand : Obligations.StepTakesTheFrontCommand := by
  unfold Obligations.StepTakesTheFrontCommand
  intro c rest s
  have front : ({ s with pending := c :: rest } : State).pending = c :: rest := rfl
  exact step_front front

end Sys2Proof.Machine
end
